-- ==== Sys2Proof/Word.lean ====
section
/-!
DEFINITION. The widths of the machine (R3, R8, R38) and the sparse list in which memories, register
files and accumulators are held: a list of (key, value) pairs with rising keys in which a key that is
not listed holds a default value. The operations on these lists stand in Sys2Proof/Machine/Cells.lean.
-/

namespace Sys2Proof

/-- A byte. -/
abbrev Byte := BitVec 8
/-- A 32-bit register, instruction word or literal (R8, R11). -/
abbrev Word := BitVec 32
/-- A register pair, an address or a lane mask of a group of at most 64 lanes. -/
abbrev DWord := BitVec 64
/-- One bit per lane of a group, bit L for %lane = L (Table 6.5). -/
abbrev LaneMask := BitVec 64
/-- One bit per quad of a group (QMASK, Table 6.4). -/
abbrev QuadMask := BitVec 16

/-- A sparse map from Nat, listed by rising key. -/
abbrev Cells (α : Type) := List (Nat × α)

/-- The 64-bit value of a pair: the even register holds bits [31:0] (R10). -/
def pairVal (lo hi : Word) : DWord := hi ++ lo
/-- Bits [31:0] of a 64-bit value. -/
def loWord (d : DWord) : Word := d.setWidth 32
/-- Bits [63:32] of a 64-bit value. -/
def hiWord (d : DWord) : Word := (d >>> 32).setWidth 32
/-- Zero extension of a word to 64 bits. -/
def zext (w : Word) : DWord := w.setWidth 64

end Sys2Proof
end

