-- ==== Sys2Proof/Machine/Cells.lean ====
section
/-!
DEFINITION. Sparse maps and sets as lists of rising keys, in one canonical form: a key is listed once, and never with
the value that an unlisted key reads as. Byte memories are such maps with default 0 (R360 step 3: all memory zero).
-/

namespace Sys2Proof.Machine

/-- The value at a key; dflt where it is not listed. -/
def cellGet {α : Type} (dflt : α) (k : Nat) : Cells α → α
  | [] => dflt
  | (j, y) :: r => if j = k then y else cellGet dflt k r

/-- Lists a value at a key, in place of what the key holds. -/
def cellIns {α : Type} (k : Nat) (x : α) : Cells α → Cells α
  | [] => [(k, x)]
  | (j, y) :: r => if k < j then (k, x) :: (j, y) :: r else if k = j then (k, x) :: r else (j, y) :: cellIns k x r

/-- Writes a value at a key and keeps the canonical form: writing the default removes the entry. -/
def cellPut {α : Type} [DecidableEq α] (dflt : α) (k : Nat) (x : α) (c : Cells α) : Cells α :=
  if x = dflt then c.filter (fun e => e.1 != k) else cellIns k x c

/-- Every listed key is above lo. -/
def cellsAbove {α : Type} (lo : Nat) : Cells α → Bool
  | [] => true
  | (j, _) :: r => decide (lo < j) && cellsAbove j r

/-- The canonical form: rising keys, no entry equal to the default. -/
def cellsWf {α : Type} [DecidableEq α] (dflt : α) (c : Cells α) : Bool :=
  (match c with
   | [] => true
   | (j, _) :: r => cellsAbove j r) && c.all (fun e => decide (e.2 ≠ dflt))

/-- Adds a number to a rising list. -/
def setAdd (k : Nat) : List Nat → List Nat
  | [] => [k]
  | j :: r => if k < j then k :: j :: r else if k = j then j :: r else j :: setAdd k r

/-- Removes a number. -/
def setDel (k : Nat) (l : List Nat) : List Nat := l.filter (· != k)

/-- Writes bytes from address a. -/
def memWrite (m : Cells Byte) (a : Nat) : List Byte → Cells Byte
  | [] => m
  | b :: r => memWrite (cellPut 0 a b m) (a + 1) r

/-- The little-endian number of a byte list (R3). -/
def leNat : List Byte → Nat
  | [] => 0
  | b :: r => b.toNat + 256 * leNat r

/-- n little-endian bytes of a number (R3). -/
def leBytes : Nat → Nat → List Byte
  | 0, _ => []
  | n + 1, x => BitVec.ofNat 8 x :: leBytes n (x / 256)

/-- The canonical form of a byte memory. -/
def memWf (m : Cells Byte) : Bool := cellsWf 0 m

/-- Element k of a list with a default. -/
def nth {α : Type} (dflt : α) (l : List α) (k : Nat) : α := l.getD k dflt

/-- Changes element k of a list, where it exists. -/
def upd {α : Type} (l : List α) (k : Nat) (f : α → α) : List α :=
  match l, k with
  | [], _ => []
  | x :: r, 0 => f x :: r
  | x :: r, n + 1 => x :: upd r n f

/-- Positions of the elements that satisfy p. -/
def positions {α : Type} (p : α → Bool) (l : List α) : List Nat :=
  ((List.range l.length).zip l).filterMap fun e => if p e.2 then some e.1 else none

/-- The first k from 0 to n − 1 that satisfies p. -/
def firstFrom (n : Nat) (p : Nat → Bool) : Option Nat := (List.range n).find? p

/-- x put into a sorted list, before the elements that it does not follow. -/
def insertBy {α : Type} (le : α → α → Bool) (x : α) : List α → List α
  | [] => [x]
  | y :: r => if le x y then x :: y :: r else y :: insertBy le x r

/-- A list in the order le, elements of one rank in the order they had. -/
def sortBy {α : Type} (le : α → α → Bool) : List α → List α
  | [] => []
  | x :: r => insertBy le x (sortBy le r)

/-- The set bits of a mask, ascending. -/
def bitsOf {w : Nat} (m : BitVec w) : List Nat := (List.range w).filter fun i => m.getLsbD i

/-- The mask of a list of bit numbers. -/
def maskOf (w : Nat) (l : List Nat) : BitVec w := l.foldl (fun m i => m ||| BitVec.twoPow w i) 0

/-- Folds a step over a list of numbers, left to right. -/
def each {σ : Type} (l : List Nat) (f : Nat → σ → σ) (s : σ) : σ := l.foldl (fun s i => f i s) s

/-- Removes duplicates, keeping first occurrences. -/
def distinct {α : Type} [DecidableEq α] (l : List α) : List α :=
  (l.foldl (fun acc x => if acc.contains x then acc else x :: acc) []).reverse

end Sys2Proof.Machine
end

