-- ==== Sys2Proof/Config.lean ====
section
/-!
DEFINITION. What an implementation fixes, the free values (opaque, without a body: nothing can
evaluate them), and the records that the outside world hands to the device in its events
(configuration records, messages, granules): plain data that the events of Sys2Proof.Instr carry.
-/

namespace Sys2Proof

/-- An arbitration point of Table 16.1. -/
inductive ArbPoint where
  | cluster (c : Nat)       -- cluster crossbar of a physical cluster
  | slice (n : Nat)         -- slice queue
  | controller (n : Nat)    -- controller queue of a stack
  | chase (n : Nat)         -- chase queue of a stack
  | blurus (n : Nat)        -- queue of one electrical port or optical link
deriving DecidableEq, Repr, Inhabited

/-- An active message (R278): what travels from a sender lane to a node's queue. -/
structure Msg where
  handler : Nat
  payload : List Word
  arg : Word
  source : Nat
  wgid : Word
  tid : Word
deriving DecidableEq, Repr, Inhabited

/-- A granule of a halted context (R260). -/
inductive Granule where
  | slice (core j : Nat)
  | pool (cluster blk : Nat)
  | acc (core i : Nat)
  | scale (core i : Nat)
  | slot (core g : Nat)
  | control (cluster : Nat)
deriving DecidableEq, Repr, Inhabited

/-- The partition configuration record (Table 19.1). rsvd gathers every bit that the table wants zero. -/
structure PartCfg where
  clmap : List Nat := List.replicate 12 255
  ceil : Nat := 1
  snapGrant : Bool := false
  chdefGrant : Bool := false
  share : Nat := 0
  hbmq : Nat := 0
  capq : Nat := 0
  root : Nat := 0
  ctxBase : Nat := 0
  ctxSize : Nat := 0
  dumpBase : Nat := 0
  dumpSize : Nat := 0
  eringBase : Nat := 0
  eringCount : Nat := 64
  evBase : Nat := 0
  evCount : Nat := 0
  msgWin : Nat := 0
  ctlPage : Nat := 0
  hht : List (DWord × DWord) := []
  hvec : List (DWord × DWord) := []
  mht : DWord := 0
  peers : DWord := 0
  repl : DWord := 0
  ports : BitVec 72 := 0
  optical : BitVec 48 := 0
  railAmps : List Nat := [0, 0, 0, 0]
  rsvd : Nat := 0
deriving DecidableEq, Repr, Inhabited

/-- A claimant of the Observatory (R352): 0 host, 1 management port, 2 fabric manager (R354). -/
inductive Claimant where
  | host
  | board
  | fabric
deriving DecidableEq, Repr, Inhabited

/-- What an error strikes from outside (R327): the check that finds it acts when the thing struck is read. -/
inductive Upset where
  | residue (g : Nat)                     -- the next arithmetic result of group g disagrees with its residue
  | vreg (g lane r : Nat)                 -- a vector register word becomes uncorrectable
  | preg (g lane p : Nat)                 -- a predicate of a lane
  | sreg (g quad r : Nat)                 -- a sequencer register of a quad
  | accum (wg row col : Nat)              -- an accumulator element
  | scale (wg off : Nat)                  -- a scale-memory entry
  | pool (gang addr : Nat)                -- a pool word
  | sector (cap : Bool) (pa : Nat)        -- a 32-byte sector of HBM or the capacity tier
  | checksum (p core : Nat)               -- a matrix checksum mismatch in the next quad-step
  | corrected (p cls addr unit : Nat)     -- a correctable error of a memory class, corrected on reading; p 12 or more: system
                                          -- traffic
deriving DecidableEq, Repr, Inhabited

/-- What a gauge of the Observatory reads (R352): a sensor, or a ring's heater code or photodiode. -/
inductive Gauge where
  | sensor
  | code (fe ring : Nat)
  | photodiode (fe ring : Nat)
deriving DecidableEq, Repr, Inhabited

namespace Config

/-- Free: nanoseconds that pass before a timestamp is sampled (R267 gives only that readings never decrease). -/
opaque elapsedNs : Nat → Nat
/-- Free: how far a core's copy of the timestamp stands from the reference at this tick, in ns, but for its bounds (R267). -/
opaque skewNs : Nat → Nat
/-- Free: cycles that pass before %cycle is sampled (R23). -/
opaque elapsedCycles : Nat → Nat
/-- Free: energy counted by a read at this tick, in 2^-16 J (R342 gives no rate). -/
opaque energy : Nat → Nat
/-- Free: throttled core-cycles of a grid, by reason 0-5 (R234). -/
opaque throttled : Nat → Nat → Nat
/-- Free: where in its range the mean clock of a completion record falls (R233). -/
opaque freq : Nat → Nat
/-- Free: which of the apertures at which a grid ran AMAIN names (R233 counts core-cycles). -/
opaque mainAper : Nat → Nat
/-- Free: whether a peer was lost by its reset or power-up at this tick, and not by its links alone (R244, R245). -/
opaque lossIsReset : Nat → Bool
/-- Free: what an entry of the replica table says (R282 gives it no layout): 0 the primary is this device, 1 a replica is,
2 neither. -/
opaque replicaRole : Nat → Nat
/-- Free: the index in the peer table of the primary that an entry of the replica table names (R282 gives it no layout). -/
opaque replicaPrimary : Nat → Nat
/-- Free: what gauge n reads (R352 lists the readings and numbers none). -/
opaque gaugeName : Nat → Gauge
/-- Free: the reading of a sensor by gauge n at this tick (R352). -/
opaque gauge : Nat → Nat → Word
/-- Uninterpreted: byte i of the SHA-512 of what some numbers stand for (R357 names the hash and does not state it). -/
opaque sha512 : List Nat → Nat → Byte
/-- Uninterpreted: byte i of the Observatory's Ed25519 signature of some bytes (R357). -/
opaque signature : List Byte → Nat → Byte
/-- Uninterpreted: whether an image's signature holds (R356). -/
opaque signatureHolds : List (Nat × Byte) → Bool
/-- Free: whether the Observatory is busy as a request comes at this tick (R352 gives status 3 and no condition). -/
opaque obsBusy : Nat → Bool
/-- Free: the module-reserved frames that the fuses name, by kind and frame (R351). -/
opaque reservedFrame : Nat → Nat → Bool
/-- Free: the peers, by partition and index, that optical link n leads to (R350: they are lost with it). -/
opaque linkPeers : Nat → List (Nat × Nat)
/-- Free: how far a ring's photodiode stands below its peak at this tick, in tenths of a dB (R348, R349). -/
opaque photodiode : Nat → Nat → Nat
/-- Free: the heater code at which a ring locks (R350). -/
opaque ringTuned : Nat → Nat → Nat
/-- Free: the fused drive limit of a fibre's lasers, in mW (Table 23.3). -/
opaque laserLimit : Nat → Nat
/-- Free: a byte of the context reserve whose page has no translation, read at this tick (R249 states no value). -/
opaque unmappedByte : Nat → Nat → Byte
/-- Free: a byte of a saved cluster control block (Table 15.6: its layout is not visible). -/
opaque controlByte : Nat → Nat → Byte
/-- Free: what a register above its quad's allocation shows to a lane of another quad (R127 states no value). -/
opaque beyondAlloc : Nat → Nat → Nat → Word
/-- Free: the source number that the device fixed for a unit (R265). -/
opaque sourceNumber : Nat → Nat

/-- Free: which of the waiting pairs an arbitration point merges (R283, R284). -/
opaque mergePick : Nat → Nat
/-- Uninterpreted: the security version that an image carries (R356 gives no place for it). -/
opaque imageVersion : List (Nat × Byte) → Word
/-- Free: the step by which a lock loop moves a ring's heater code, from -4 to 4 before clamping (R348). -/
opaque ringStep : Nat → Nat → Int
/-- Free: whether a peer's message queue has a place for a message of this device at this tick (R279). -/
opaque peerCredit : Nat → Nat → Bool
/-- Free: nanoseconds from the leaving of packet n of an engine's piece, or of a WAITA's read, at this tick to its reply
(R271: they travel as packets, and nothing bounds when their replies come but R272). -/
opaque replyNs : Nat → Nat → Nat
/-- Free: whether a request finds its sector in the slice cache (Table 8.1: not visible but as latency). -/
opaque sliceHit : Nat → Bool

end Config

/-- Table 0.3 and Table 6.2: group width of an aperture. -/
def widthOf : Nat → Nat
  | 1 => 8 | 2 => 12 | 3 => 16 | 4 => 24 | 5 => 32 | 6 => 48 | 7 => 64 | _ => 8
/-- Table 0.3: clock of an aperture in units of 10 MHz. -/
def clockOf : Nat → Nat
  | 1 => 210 | 2 => 180 | 3 => 150 | 4 => 125 | 5 => 105 | 6 => 80 | 7 => 62 | _ => 105
/-- Table 6.2: threads per core at most. -/
def threadsOf : Nat → Nat
  | 1 => 1024 | 2 => 1536 | 3 => 2048 | 4 => 3072 | 5 => 4096 | 6 => 6144 | 7 => 8192 | _ => 0
/-- Table 22.2: budgeted cluster current in A. -/
def ampsOf : Nat → Nat
  | 1 => 262 | 2 => 289 | 3 => 322 | 4 => 363 | 5 => 402 | 6 => 460 | 7 => 512 | _ => 0
/-- Table 11.1: quad-steps per cycle (8- and 16-bit B). -/
def planesOf : Nat → Nat
  | 1 => 2 | 2 => 2 | 3 => 3 | 4 => 4 | 5 => 6 | 6 => 7 | 7 => 8 | _ => 0

end Sys2Proof
end

