-- ==== Sys2Proof/Machine/Table.lean ====
section
/-!
DEFINITION. Table 3.2 (R31) as data: words, privilege, fields and guardedness of every assigned
opcode, with the register runs that an instruction names under a mode word (R10, R32, R59) and the
mode words that it accepts (R34, Tables 5.1 and 10.4). The decoder, the well-formedness predicate and
the machine's order of checks (R35) all read this one table.
-/

namespace Sys2Proof

/-- What a D, A or B byte holds (the notation of Table 3.2). -/
inductive Field where
  | zero                    -- must be zero
  | any                     -- any byte (masks, patterns, offsets, immediate halves)
  | imm (lo hi : Nat)       -- an unsigned immediate
  | v                       -- a vector register, a pair where Table 5.1 says so
  | vone                    -- a vector register, never a pair
  | vpair                   -- v:2
  | vplus                   -- v+ (R32)
  | vplusOrNone             -- v+ or 0xFF
  | vpairOrNone             -- v:2 or 0xFF
  | vrun (n : Nat)          -- run of n, any base
  | vrun8                   -- run of eight, aligned to 8
  | acas                    -- the combined run of ACAS (R32)
  | s                       -- a sequencer register
  | sOrNone                 -- s or 0xFF
  | spair                   -- s:2
  | smsize                  -- s, or s:2 when MSIZE is 3
  | srun (n align last : Nat) -- sequencer run of n, base a multiple of align, at most last
  | pred                    -- predicate in [3:0], [7:4] zero
  | cond                    -- condition code in [7:4], [3:0] zero
  | condPred                -- condition code in [7:4], predicate in [3:0]
  | grd                     -- predicate [3:0], invert [4], [7:5] zero
  | cvt (wide : Bool)       -- a TYPE code 0-14; 12 and 13 only where wide
  | getsD | getsA | getsB   -- GETS (R28)
  | setsD | setsA | setsB   -- SETS (R255)
deriving DecidableEq, Repr

/-- One row of Table 3.2. -/
structure Row where
  words : Nat := 1
  priv : Bool := false
  d : Field := .zero
  a : Field := .zero
  b : Field := .zero
  guarded : Bool := false
  /-- D is also a source (MAD, BFI, MOVH, FMA, FNMA, stores). -/
  dsrc : Bool := false
  /-- D is a destination register. -/
  ddst : Bool := true
deriving DecidableEq, Repr

namespace Table

/-- Table 3.2, rows 0x00-0x18. -/
def rowControl : Nat → Option Row
  | 0x00 => some {}
  | 0x01 => some { words := 2 }
  | 0x02 => some { words := 2, d := .cond, a := .s, b := .s }
  | 0x03 => some { words := 2, d := .pred, dsrc := true, ddst := false }
  | 0x04 => some {}
  | 0x05 => some { words := 2, d := .imm 1 255 }
  | 0x06 => some { d := .vone, a := .spair, b := .s, dsrc := true, ddst := false }
  | 0x07 => some { words := 2, d := .spair }
  | 0x08 => some { d := .spair, a := .spair }
  | 0x09 => some { a := .spair }
  | 0x0A => some { guarded := true }
  | 0x0B => some { guarded := true }
  | 0x0C => some { d := .pred, a := .imm 1 7 }
  | 0x0D => some { d := .pred, a := .imm 1 32 }
  | 0x0E => some { a := .imm 1 32 }
  | 0x0F => some {}
  | 0x10 => some { d := .any, a := .any, b := .any }
  | 0x11 => some { d := .sOrNone, a := .s, b := .any }
  | 0x12 => some { b := .grd }
  | 0x13 => some { b := .any, guarded := true }
  | 0x14 => some { priv := true, d := .imm 0 1 }
  | 0x15 => some { d := .getsD, a := .getsA, b := .getsB }
  | 0x16 => some { priv := true, d := .setsD, a := .setsA, b := .setsB, ddst := false }
  | 0x17 => some { d := .pred, a := .spair }
  | 0x18 => some { priv := true, d := .imm 0 3, a := .spair }
  | _ => none

/-- A row of three vector registers. -/
def vvv : Row := { d := .v, a := .v, b := .v, guarded := true }

/-- Table 3.2, rows 0x20-0x51. -/
def rowLane : Nat → Option Row
  | 0x20 | 0x21 | 0x22 | 0x23 | 0x25 | 0x26 | 0x27 | 0x28 | 0x29 | 0x2A => some vvv
  | 0x24 => some { vvv with dsrc := true }
  | 0x2B | 0x2C | 0x2D | 0x2E => some { vvv with b := .vone }
  | 0x2F => some { vvv with b := .vone, dsrc := true }
  | 0x30 | 0x31 => some { d := .vone, a := .v, guarded := true }
  | 0x32 => some { d := .v, a := .v, guarded := true }
  | 0x33 => some { vvv with guarded := false }
  | 0x34 => some { d := .condPred, a := .v, b := .v, guarded := true }
  | 0x35 => some { d := .v, a := .v, b := .any, guarded := true }
  | 0x36 | 0x37 | 0x38 => some { d := .v, a := .v, b := .imm 0 63, guarded := true }
  | 0x39 => some { d := .v, a := .v, guarded := true }
  | 0x3A => some { d := .vone, a := .any, b := .any, guarded := true }
  | 0x3B => some { d := .vone, a := .any, b := .any, guarded := true, dsrc := true }
  | 0x3C => some { words := 2, d := .vone, guarded := true }
  | 0x3D => some { d := .vpair, a := .spair, b := .vone, guarded := true }
  | 0x3E => some { d := .vpair, a := .vpair, b := .vone, guarded := true }
  | 0x40 | 0x41 | 0x42 | 0x45 | 0x46 => some { d := .vone, a := .vone, b := .vone, guarded := true }
  | 0x43 | 0x44 => some { d := .vone, a := .vone, b := .vone, guarded := true, dsrc := true }
  | 0x47 => some { d := .condPred, a := .vone, b := .vone, guarded := true }
  | 0x48 | 0x49 | 0x4A | 0x4B | 0x4C | 0x4D => some { d := .vone, a := .vone, guarded := true }
  | 0x4E => some { d := .vone, a := .vone, b := .cvt false, guarded := true }
  | 0x4F => some { d := .vone, a := .vpair, b := .cvt false, guarded := true }
  | 0x50 => some { d := .vpair, a := .vone, b := .cvt true, guarded := true }
  | 0x51 => some { d := .vpair, a := .vone, b := .vone, guarded := true }
  | _ => none

/-- A row of three sequencer registers. -/
def sss : Row := { d := .s, a := .s, b := .s }

/-- Table 3.2, rows 0x58-0x75. -/
def rowSeq : Nat → Option Row
  | 0x58 | 0x59 | 0x5A | 0x5B | 0x5C | 0x5D | 0x5E | 0x5F => some sss
  | 0x60 => some { d := .condPred, a := .s, b := .s }
  | 0x61 => some { d := .s, a := .s }
  | 0x62 => some { d := .s, a := .any, b := .any }
  | 0x63 => some { words := 2, d := .s }
  | 0x64 => some { d := .spair, a := .spair, b := .s }
  | 0x65 => some { d := .smsize, a := .spair, b := .any }
  | 0x66 => some { d := .smsize, a := .spair, b := .any, dsrc := true, ddst := false }
  | 0x67 => some { d := .vone, a := .s, guarded := true }
  | 0x68 => some { d := .s, a := .vone, b := .imm 0 3 }
  | 0x70 => some { d := .vone, a := .vone, b := .any, guarded := true }
  | 0x71 | 0x72 => some { d := .vone, a := .vone, b := .vone, guarded := true }
  | 0x73 => some { d := .vone, a := .vone, b := .imm 1 63, guarded := true }
  | 0x74 => some { d := .spair, a := .pred }
  | 0x75 => some { d := .pred, a := .pred, b := .imm 0 2, guarded := true }
  | _ => none

/-- Table 3.2, rows 0x80-0x9B. -/
def rowMem : Nat → Option Row
  | 0x80 => some { d := .vplus, a := .vpair, b := .any, guarded := true }
  | 0x81 => some { d := .vplus, a := .spair, b := .vone, guarded := true }
  | 0x82 => some { d := .vplus, a := .vpair, b := .any, guarded := true, dsrc := true, ddst := false }
  | 0x83 => some { d := .vplus, a := .spair, b := .vone, guarded := true, dsrc := true, ddst := false }
  | 0x84 => some { d := .vplus, a := .vone, b := .any, guarded := true }
  | 0x85 => some { d := .vplus, a := .vone, b := .any, guarded := true, dsrc := true, ddst := false }
  | 0x86 => some { d := .vplus, a := .vpair, b := .s, guarded := true }
  | 0x87 => some { a := .vpair, b := .any, guarded := true }
  | 0x88 => some { b := .imm 0 3 }
  | 0x90 | 0x91 | 0x92 | 0x93 | 0x94 | 0x95 | 0x96 | 0x98 =>
    some { d := .vplusOrNone, a := .vpair, b := .vplus, guarded := true }
  | 0x97 => some { d := .vplusOrNone, a := .vpair, b := .acas, guarded := true }
  | 0x99 => some { d := .vpairOrNone, a := .vpair, b := .vone, guarded := true }
  | 0x9A => some { d := .vpair, a := .vpair, guarded := true }
  | 0x9B => some { d := .s, a := .vpair, b := .vone, guarded := true, dsrc := true, ddst := false }
  | _ => none

/-- Table 3.2, rows 0xA0-0xC6. -/
def rowSys : Nat → Option Row
  | 0xA0 | 0xA1 => some { a := .spair }
  | 0xA2 => some { d := .cond, a := .spair, b := .s }
  | 0xA3 => some { d := .imm 0 15, a := .srun 4 1 60 }
  | 0xA4 => some { d := .imm 0 15, a := .s }
  | 0xA5 => some { d := .s, a := .imm 0 15 }
  | 0xA6 => some { d := .pred, a := .s, b := .imm 0 15 }
  | 0xA7 => some { d := .s, a := .imm 0 15, b := .pred }
  | 0xA8 => some { d := .imm 0 31, a := .s }
  | 0xB0 => some { a := .srun 12 4 52 }
  | 0xB1 => some { d := .vrun 11, a := .vpair, b := .imm 0 15, guarded := true }
  | 0xB2 => some { priv := true, d := .imm 0 15, a := .srun 8 8 56 }
  | 0xB3 => some { d := .pred, a := .srun 8 8 56 }
  | 0xB4 => some {}
  | 0xB5 => some { d := .imm 0 3, a := .srun 4 4 60 }
  | 0xB6 => some { d := .imm 0 3, a := .vrun 12, b := .imm 0 3, guarded := true }
  | 0xB7 => some { a := .s, b := .s }
  | 0xB8 => some { d := .vrun 16, b := .imm 0 15, guarded := true }
  | 0xB9 => some { a := .vrun 16, b := .imm 0 15, guarded := true }
  | 0xC0 => some { d := .any, a := .vrun8, b := .vpair, guarded := true }
  | 0xC1 => some { d := .imm 0 7, a := .s }
  | 0xC2 => some { d := .imm 0 3, a := .s, b := .s }
  | 0xC3 => some { d := .imm 0 3 }
  | 0xC4 => some { d := .s }
  | 0xC5 => some { d := .spair, a := .s }
  | 0xC6 => some { priv := true, a := .s }
  | _ => none

/-- The row of an opcode; none where Table 3.1 leaves it unassigned (R29, R30). -/
def row (op : Nat) : Option Row :=
  if op < 0x20 then rowControl op
  else if op < 0x58 then rowLane op
  else if op < 0x80 then rowSeq op
  else if op < 0xA0 then rowMem op
  else rowSys op

/-- Width in bits of a special register (Table 2.5). -/
def specialWide (n : Nat) : Bool := n == 12 || n == 13 || n == 14 || n == 21

/-- The field check of R31 on one byte: code 5 where it fails. d, a and b stand for the rules that read a second byte. -/
def fieldOk (f : Field) (d a b x : Nat) : Bool :=
  match f with
  | .zero => x == 0
  | .imm lo hi => lo ≤ x && x ≤ hi
  | .s | .spair | .smsize | .srun _ _ _ => x < 64
  | .sOrNone => x < 64 || x == 255
  | .pred => x < 16
  | .cond => x % 16 == 0
  | .grd => x < 32
  | .cvt wide => x ≤ 14 && (wide || (x != 12 && x != 13))
  | .getsD => a % 2 == 0 || d < 64
  | .getsA => x < 4 && (x / 2 == 0 || b == 17)
  | .getsB => x ≤ 21
  | .setsD => (x == 16 && a % 2 == 1) || ((x == 17 || x == 20 || x == 21) && a % 2 == 0)
  | .setsA => x < 2
  | .setsB => a % 2 == 0 || b < 64
  | _ => true

/-- Step 5 of R35: every field of the row (R31; R24 to R28; R255). -/
def fieldsOk (r : Row) (d a b : Nat) : Bool :=
  fieldOk r.d d a b d && fieldOk r.a d a b a && fieldOk r.b d a b b

/-! Mode word fields (Table 2.4). -/

/-- GUARD. -/
def guardOf (m : Word) : Nat := (m.extractLsb' 0 4).toNat
/-- GNEG. -/
def gnegOf (m : Word) : Bool := m.getLsbD 4
/-- TYPE. -/
def typeOf (m : Word) : Nat := (m.extractLsb' 5 5).toNat
/-- RND. -/
def rndOf (m : Word) : Nat := (m.extractLsb' 10 2).toNat
/-- SAT. -/
def satOf (m : Word) : Bool := m.getLsbD 12
/-- SLK. -/
def slkOf (m : Word) : Nat := (m.extractLsb' 13 3).toNat
/-- ORD. -/
def ordOf (m : Word) : Nat := (m.extractLsb' 16 2).toNat
/-- SCOPE. -/
def scopeOf (m : Word) : Nat := (m.extractLsb' 18 3).toNat
/-- MSIZE. -/
def msizeOf (m : Word) : Nat := (m.extractLsb' 21 3).toNat
/-- A reserved value (R20). -/
def reservedMode (m : Word) : Bool :=
  15 ≤ typeOf m || scopeOf m == 7 || 6 ≤ msizeOf m || m.extractLsb' 24 8 != 0

/-- Bytes of an access (Table 2.4, MSIZE). -/
def sizeOf' : Nat → Nat
  | 0 => 4 | 1 => 1 | 2 => 2 | 3 => 8 | 4 => 16 | 5 => 32 | _ => 4
/-- Registers of a v+ operand (R32). -/
def plusCount : Nat → Nat
  | 3 => 2 | 4 => 4 | 5 => 8 | _ => 1

/-- TYPE 12 and 13. -/
def wideType (m : Word) : Bool := typeOf m == 12 || typeOf m == 13

/-- Table 5.1, Table 10.4, R87: does the instruction accept this mode word (step 7 of R35)? -/
def modeOk (op : Nat) (m : Word) : Bool :=
  let t := typeOf m
  let z := msizeOf m
  if (0x20 ≤ op && op ≤ 0x26) || op == 0x35 then t ≤ 5 || t == 12 || t == 13
  else if op == 0x2B || op == 0x2C || op == 0x2D || (0x36 ≤ op && op ≤ 0x38) then t ≤ 5 || (12 ≤ t && t ≤ 14)
  else if op == 0x2E || op == 0x2F || (0x30 ≤ op && op ≤ 0x32) || op == 0x34 then t ≤ 1 || (12 ≤ t && t ≤ 14)
  else if (0x40 ≤ op && op ≤ 0x46) || op == 0x4C || op == 0x4D then 6 ≤ t && t ≤ 8
  else if 0x47 ≤ op && op ≤ 0x4B then t == 6
  else if op == 0x4E || op == 0x50 then t ≤ 11 || t == 14
  else if op == 0x65 || op == 0x66 then z == 0 || z == 3
  else if 0x90 ≤ op && op ≤ 0x92 then (z == 0 && t ≤ 1) || (z == 3 && (t == 12 || t == 13))
  else if 0x93 ≤ op && op ≤ 0x97 then z == 0 || z == 3
  else if op == 0x98 then z == 0 && t == 6
  else true

/-- The three register files (R10). -/
inductive RFile where
  | vec | seq | prd
deriving DecidableEq, Repr

/-- A run of registers that an instruction names. -/
structure Run where
  file : RFile
  base : Nat
  count : Nat
  align : Nat
  src : Bool
  dst : Bool
deriving DecidableEq, Repr

/-- Whether a field of kind v is a pair under this mode word (Table 5.1). -/
def vWide (op : Nat) (m : Word) : Bool :=
  wideType m && 0x20 ≤ op && op ≤ 0x39

/-- The run that a field names (R10, R32); none where it names no register. -/
def runOf (op : Nat) (m : Word) (d a b : Nat) (f : Field) (x : Nat) (src dst : Bool) : List Run :=
  let vr (n al : Nat) : List Run := [⟨.vec, x, n, al, src, dst⟩]
  let sr (n al : Nat) : List Run := [⟨.seq, x, n, al, src, dst⟩]
  let pc := plusCount (msizeOf m)
  match f with
  | .v => if vWide op m then vr 2 2 else vr 1 1
  | .vone => vr 1 1
  | .vpair => vr 2 2
  | .vplus => vr pc pc
  | .vplusOrNone => if x == 255 then [] else vr pc pc
  | .vpairOrNone => if x == 255 then [] else vr 2 2
  | .vrun n => vr n 1
  | .vrun8 => vr 8 8
  | .acas => vr (2 * pc) (2 * pc)
  | .s => sr 1 1
  | .sOrNone => if x == 255 then [] else sr 1 1
  | .spair => sr 2 2
  | .smsize => if msizeOf m == 3 then sr 2 2 else sr 1 1
  | .srun n al _ => sr n al
  | .pred | .condPred => [⟨.prd, x % 16, 1, 1, src, dst⟩]
  | .getsD =>
    let n := if specialWide b then 2 else 1
    if a % 2 == 0 then vr n n else sr n n
  | .setsB =>
    let n := if d == 21 then 2 else 1
    if a % 2 == 0 then vr n n else sr n n
  | _ => []

/-- Every run that an instruction names, with the guard predicate where it is consulted (R19). -/
def runs (op : Nat) (r : Row) (m : Word) (d a b : Nat) : List Run :=
  let guard : List Run :=
    if r.guarded || op == 0x33 || ((op == 0x15 || op == 0x16) && a % 2 == 0) then
      [⟨.prd, guardOf m, 1, 1, true, false⟩] else []
  runOf op m d a b r.d d r.dsrc r.ddst
    ++ runOf op m d a b r.a a (op != 0xA5 && op != 0xA7) false
    ++ runOf op m d a b r.b b (op != 0xA7) (op == 0xA7)
    ++ guard

/-- Whether the instruction takes its decode faults only in lanes whose guard is 1 (R35). -/
def takesGuarded (op : Nat) (r : Row) (a : Nat) : Bool :=
  r.guarded || ((op == 0x15 || op == 0x16) && a % 2 == 0)

/-- Step 6 of R35 on one run, for a thread of allocation alloc (R10, R32). -/
def runOk (alloc : Nat) (u : Run) : Bool :=
  u.base % u.align == 0 &&
    (match u.file with
     | .vec => u.base + u.count ≤ alloc
     | .seq => u.base + u.count ≤ 64
     | .prd => true)

end Table

end Sys2Proof
end

