-- ==== Sys2Proof/Syntax.lean ====
section
/-!
DEFINITION. The steps of the ZM9600: one constructor per row of spec/opcode_table.json. The 144
instructions of Table 3.1 carry their D, A and B bytes (and the literal word L of the seven two-word
instructions) as the word holds them: R35 orders the field check after the privilege check and an
ill-formed word takes an architectural fault, so no bit of a word may be lost in decoding. The
events of the device and of the outside world carry their operands and have no encoding.
-/

namespace Sys2Proof

/-- One step of the device: an Ighal instruction (R29), a word with an unassigned opcode (R30), or an
event of the table of operations and events. -/
inductive Instr where
  /-- NOP (R24). No operation. The word may carry the wait and boundary bits. -/
  | nop (d a b : Byte)
  /-- BRA (R113). Branch always; the split moves whole to the target given by the literal offset. -/
  | bra (d a b : Byte) (l : Word)
  /-- BRS (R114). Uniform branch on a condition over two sequencer registers, distributed per quad by R112. -/
  | brs (d a b : Byte) (l : Word)
  /-- BRD (R115). Divergent branch on a predicate; opens a region record and splits or defers quads by R98. -/
  | brd (d a b : Byte) (l : Word)
  /-- JOIN (R116). Arrives at the innermost region's join and parks, or completes as a NOP when there is no region. -/
  | join (d a b : Byte)
  /-- BRK (R117). Breaks the split's active lanes out of the n innermost regions to a target. -/
  | brk (d a b : Byte) (l : Word)
  /-- JT (R118). Jump table: loads a per-lane entry, opens or reuses a region and distributes the quads. -/
  | jt (d a b : Byte)
  /-- CALL (R120). Writes the link address to a sequencer pair and transfers to a slot-0 target. -/
  | call (d a b : Byte) (l : Word)
  /-- CALLI (R120). Indirect call: writes the link and transfers each quad to its own target pair. -/
  | calli (d a b : Byte)
  /-- RET (R120). Returns each quad to the address held in a sequencer pair. -/
  | ret (d a b : Byte)
  /-- EXIT (R121). Retires the guarded active lanes; can end a handler or retire a workgroup. -/
  | exit (d a b : Byte)
  /-- DEMOTE (R122). Makes the guarded active lanes helper lanes permanently. -/
  | demote (d a b : Byte)
  /-- APT (R123). Requests an aperture move; completes at once or parks the group until the move or its refusal. -/
  | apt (d a b : Byte)
  /-- RGROW (R124). Raises the register allocation of the split's quads, all or nothing, parking until room is found. -/
  | rgrow (d a b : Byte)
  /-- RSHRK (R125). Lowers the register allocation and frees the slice words at once. -/
  | rshrk (d a b : Byte)
  /-- IDEM (R126). Sets the group's restart point and opens an idempotent region. -/
  | idem (d a b : Byte)
  /-- MODE (R25). Writes the whole mode word in each quad with an active lane, or raises the illegal-mode fault. -/
  | mode (d a b : Byte)
  /-- MODX (R26). Copies the selected mode fields from a sequencer register after saving the old mode word. -/
  | modx (d a b : Byte)
  /-- GRD (R27). Sets GUARD and GNEG and leaves the other mode fields unchanged. -/
  | grd (d a b : Byte)
  /-- TRAP (R254). Raises the software trap, code 18, in the guarded active lanes. -/
  | trap (d a b : Byte)
  /-- RETT (R252). Returns from the handler: restores the trap frame and builds the return split to re-execute or skip. -/
  | rett (d a b : Byte)
  /-- GETS (R28). Reads a special register into a vector or sequencer destination, optionally clearing %fflags. -/
  | gets (d a b : Byte)
  /-- SETS (R255). Privileged write of %late, %fflags, %fault or %faddr. -/
  | sets (d a b : Byte)
  /-- LAUNCH (R222). Submits a launch record per quad to the partition's launch queue and writes a status. -/
  | launch (d a b : Byte)
  /-- TLBI (R243). Drops cached translations of the selected kind and waits for accesses translated before the drop. -/
  | tlbi (d a b : Byte)
  /-- ADD (R63). Adds elements, wrapping or saturating by the type. -/
  | add (d a b : Byte)
  /-- SUB (R63). Subtracts elements, wrapping or saturating by the type. -/
  | sub (d a b : Byte)
  /-- MUL (R63). Multiplies elements, keeping the low half. -/
  | mul (d a b : Byte)
  /-- MULH (R63). Multiplies elements, keeping the high half. -/
  | mulh (d a b : Byte)
  /-- MAD (R64). Computes a times b plus d exactly, then fits the result. -/
  | mad (d a b : Byte)
  /-- MIN (R63). Writes the elementwise minimum. -/
  | min (d a b : Byte)
  /-- MAX (R63). Writes the elementwise maximum. -/
  | max (d a b : Byte)
  /-- AND (R65). Bitwise and. -/
  | and (d a b : Byte)
  /-- OR (R65). Bitwise or. -/
  | or (d a b : Byte)
  /-- XOR (R65). Bitwise exclusive or. -/
  | xor (d a b : Byte)
  /-- ANDN (R65). Bitwise and-not. -/
  | andn (d a b : Byte)
  /-- SHL (R66). Shifts left by a register count, saturating under SAT. -/
  | shl (d a b : Byte)
  /-- SHR (R66). Logical shift right by a register count. -/
  | shr (d a b : Byte)
  /-- SAR (R66). Arithmetic shift right by a register count. -/
  | sar (d a b : Byte)
  /-- BFE (R67). Extracts a bit field, with sign extension under signed types. -/
  | bfe (d a b : Byte)
  /-- BFI (R67). Inserts a bit field into the destination. -/
  | bfi (d a b : Byte)
  /-- POPC (R68). Counts the set bits. -/
  | popc (d a b : Byte)
  /-- CLZ (R68). Counts the leading zero bits. -/
  | clz (d a b : Byte)
  /-- BREV (R68). Reverses the bit order. -/
  | brev (d a b : Byte)
  /-- SEL (R69). Selects vA where the guard is 1 and vB elsewhere, in every active lane. -/
  | sel (d a b : Byte)
  /-- CMP (R71). Integer compare that writes one predicate bit per lane. -/
  | cmp (d a b : Byte)
  /-- ADDI (R72). Adds a signed byte immediate to each element. -/
  | addi (d a b : Byte)
  /-- SHLI (R66). Shifts left by an immediate count. -/
  | shli (d a b : Byte)
  /-- SHRI (R66). Logical shift right by an immediate count. -/
  | shri (d a b : Byte)
  /-- SARI (R66). Arithmetic shift right by an immediate count. -/
  | sari (d a b : Byte)
  /-- MOV (R65). Copies a register, or a pair under the 64-bit types. -/
  | mov (d a b : Byte)
  /-- MOVI (R73). Writes a sign-extended 16-bit immediate. -/
  | movi (d a b : Byte)
  /-- MOVH (R73). Writes a 16-bit immediate to the high half and keeps the low half. -/
  | movh (d a b : Byte)
  /-- LIT (R73). Writes a 32-bit literal word to a vector register. -/
  | lit (d a b : Byte) (l : Word)
  /-- LEA (R74). Forms a sequencer base plus a scaled index as a 64-bit address. -/
  | lea (d a b : Byte)
  /-- ADDX (R74). Adds a zero-extended register to a 64-bit pair. -/
  | addx (d a b : Byte)
  /-- FADD (R75). Floating-point add, rounded in RND. -/
  | fadd (d a b : Byte)
  /-- FSUB (R75). Floating-point subtract. -/
  | fsub (d a b : Byte)
  /-- FMUL (R75). Floating-point multiply. -/
  | fmul (d a b : Byte)
  /-- FMA (R76). Fused multiply-add, rounded once. -/
  | fma (d a b : Byte)
  /-- FNMA (R76). Computes d minus a times b, rounded once. -/
  | fnma (d a b : Byte)
  /-- FMIN (R75). Floating-point minimum. -/
  | fmin (d a b : Byte)
  /-- FMAX (R75). Floating-point maximum. -/
  | fmax (d a b : Byte)
  /-- FCMP (R71). FP32 compare that writes one predicate bit per lane. -/
  | fcmp (d a b : Byte)
  /-- RSQ (R77). Reciprocal square root seed from the table of R53. -/
  | rsq (d a b : Byte)
  /-- RCP (R77). Reciprocal seed from the table of R54. -/
  | rcp (d a b : Byte)
  /-- EX2 (R77). Base-2 exponential by table interpolation. -/
  | ex2 (d a b : Byte)
  /-- LG2 (R77). Base-2 logarithm by table interpolation. -/
  | lg2 (d a b : Byte)
  /-- FRND (R78). Rounds each element to an integral value in RND. -/
  | frnd (d a b : Byte)
  /-- FCLS (R79). Writes a one-hot class mask for each element. -/
  | fcls (d a b : Byte)
  /-- CVT (R80). Converts between element types, register to register. -/
  | cvt (d a b : Byte)
  /-- CVTN (R80). Narrowing conversion from a register pair to one register. -/
  | cvtn (d a b : Byte)
  /-- CVTW (R80). Widening conversion from one register to a register pair. -/
  | cvtw (d a b : Byte)
  /-- TWOS (R82). Writes the TwoSum sum and error pair. -/
  | twos (d a b : Byte)
  /-- SADD (R84). Sequencer add modulo 2^32. -/
  | sadd (d a b : Byte)
  /-- SSUB (R84). Sequencer subtract. -/
  | ssub (d a b : Byte)
  /-- SMUL (R84). Sequencer multiply, low 32 bits. -/
  | smul (d a b : Byte)
  /-- SAND (R84). Sequencer bitwise and. -/
  | sand (d a b : Byte)
  /-- SOR (R84). Sequencer bitwise or. -/
  | sor (d a b : Byte)
  /-- SXOR (R84). Sequencer bitwise exclusive or. -/
  | sxor (d a b : Byte)
  /-- SSHL (R84). Sequencer shift left. -/
  | sshl (d a b : Byte)
  /-- SSHR (R84). Sequencer logical shift right. -/
  | sshr (d a b : Byte)
  /-- SCMP (R85). Compares sequencer registers and writes a predicate in the quad's active lanes. -/
  | scmp (d a b : Byte)
  /-- SMOV (R86). Copies a sequencer register. -/
  | smov (d a b : Byte)
  /-- SMOVI (R86). Writes a sign-extended 16-bit immediate to a sequencer register. -/
  | smovi (d a b : Byte)
  /-- SLIT (R86). Writes a 32-bit literal word to a sequencer register. -/
  | slit (d a b : Byte) (l : Word)
  /-- SADDX (R86). Adds a zero-extended sequencer register to a sequencer pair. -/
  | saddx (d a b : Byte)
  /-- SLD (R87). Sequencer load from global memory, one access per quad. -/
  | sld (d a b : Byte)
  /-- SST (R87). Sequencer store to global memory, one access per quad. -/
  | sst (d a b : Byte)
  /-- BCAST (R88). Copies a quad's sequencer register into its guarded lanes. -/
  | bcast (d a b : Byte)
  /-- RDLN (R89). Copies one lane's vector register into the quad's sequencer register. -/
  | rdln (d a b : Byte)
  /-- QSWZ (R128). Swizzles values within each quad by a pattern. -/
  | qswz (d a b : Byte)
  /-- SHFL (R129). Indexed shuffle across the group. -/
  | shfl (d a b : Byte)
  /-- SHFX (R129). Butterfly shuffle by an exclusive-or mask. -/
  | shfx (d a b : Byte)
  /-- SHUP (R130). Shuffle up by a distance, giving zero below lane 0. -/
  | shup (d a b : Byte)
  /-- VOTE (R131). Writes a ballot of a predicate over the active real lanes to a sequencer pair. -/
  | vote (d a b : Byte)
  /-- VTST (R132). Tests a predicate as any, all or uniform across the split. -/
  | vtst (d a b : Byte)
  /-- LD (R172). Loads from global memory at a register address plus an offset. -/
  | ld (d a b : Byte)
  /-- LDX (R172). Loads from global memory at a sequencer base plus a scaled index. -/
  | ldx (d a b : Byte)
  /-- ST (R172). Stores to global memory through the group's store queue. -/
  | st (d a b : Byte)
  /-- STX (R172). Indexed store to global memory. -/
  | stx (d a b : Byte)
  /-- LDP (R172). Loads from the gang's pool. -/
  | ldp (d a b : Byte)
  /-- STP (R172). Stores to the gang's pool. -/
  | stp (d a b : Byte)
  /-- LDV (R317). Loads as of a generation: live, from a closed image, or faulting. -/
  | ldv (d a b : Byte)
  /-- PREF (R173). Prefetches a sector into the cluster cache and never faults. -/
  | pref (d a b : Byte)
  /-- FENCE (R174). Orders each lane's accesses by kind, parking until the ordering is met. -/
  | fence (d a b : Byte)
  /-- AADD (R175). Atomic add, with or without a return. -/
  | aadd (d a b : Byte)
  /-- AMIN (R175). Atomic minimum. -/
  | amin (d a b : Byte)
  /-- AMAX (R175). Atomic maximum. -/
  | amax (d a b : Byte)
  /-- AAND (R175). Atomic and. -/
  | aand (d a b : Byte)
  /-- AOR (R175). Atomic or. -/
  | aor (d a b : Byte)
  /-- AXOR (R175). Atomic exclusive or. -/
  | axor (d a b : Byte)
  /-- AXCH (R175). Atomic exchange. -/
  | axch (d a b : Byte)
  /-- ACAS (R175). Atomic compare-and-swap. -/
  | acas (d a b : Byte)
  /-- AFADD (R175). Atomic FP32 add, rounded to nearest even. -/
  | afadd (d a b : Byte)
  /-- REDC (R176). Adds an FP32 value to a compensated pair atomically. -/
  | redc (d a b : Byte)
  /-- CPRD (R176). Returns a compensated pair and clears it atomically. -/
  | cprd (d a b : Byte)
  /-- REDX (R177). Adds a fixed-point conversion of an FP32 value to an i64 atomically. -/
  | redx (d a b : Byte)
  /-- BAR (R178). Arrives at the workgroup barrier with a quad mask and parks until the instance completes. -/
  | bar (d a b : Byte)
  /-- GBAR (R180). Arrives at the gang barrier. -/
  | gbar (d a b : Byte)
  /-- WAITA (R181). Parks the split until a memory word meets a condition. -/
  | waita (d a b : Byte)
  /-- QDEF (R182). Defines a gang queue from a four-register record. -/
  | qdef (d a b : Byte)
  /-- PUSH (R183). Pushes a value onto a queue, parking while the allowance is zero. -/
  | push (d a b : Byte)
  /-- POP (R183). Pops a value from a queue, parking until one is available. -/
  | pop (d a b : Byte)
  /-- PUSHN (R184). Non-blocking push that writes a status. -/
  | pushn (d a b : Byte)
  /-- POPN (R184). Non-blocking pop that writes a status. -/
  | popn (d a b : Byte)
  /-- GRES (R185). Resolves a guard slot false or true, or reopens it. -/
  | gres (d a b : Byte)
  /-- COPY (R187). Issues a copy-engine command from a twelve-register record. -/
  | copy (d a b : Byte)
  /-- CHASE (R192). Sends a graph walk per lane to a chase engine. -/
  | chase (d a b : Byte)
  /-- CHDEF (R191). Privileged definition of a partition chase recipe. -/
  | chdef (d a b : Byte)
  /-- MACQ (R199). Requests an accumulator reservation for the workgroup, all or nothing. -/
  | macq (d a b : Byte)
  /-- MREL (R201). Releases the reservation after the workgroup's outstanding matrix work completes. -/
  | mrel (d a b : Byte)
  /-- MSHP (R202). Sets a shape record for a B tile in the pool. -/
  | mshp (d a b : Byte)
  /-- MMA (R204). Checks a matrix step and issues it into the matrix queue. -/
  | mma (d a b : Byte)
  /-- MZERO (R206). Clears accumulator rows and their overflow flags. -/
  | mzero (d a b : Byte)
  /-- MRD (R207). Reads 16 accumulator columns of each lane's row into registers. -/
  | mrd (d a b : Byte)
  /-- MWR (R207). Writes 16 accumulator columns of each lane's row from registers. -/
  | mwr (d a b : Byte)
  /-- AMSG (R278). Sends a 32-byte active message per lane to a node's handler. -/
  | amsg (d a b : Byte)
  /-- SLK (R273). Sets a slack class's initial slack and report option. -/
  | slk (d a b : Byte)
  /-- CIRC (R274). Opens a circuit of reserved slots towards a slice's home channel. -/
  | circ (d a b : Byte)
  /-- CREL (R277). Ends a circuit. -/
  | crel (d a b : Byte)
  /-- SNAP (R316). Requests a cut that closes the current generation and returns its number. -/
  | snap (d a b : Byte)
  /-- GENQ (R318). Queries a generation's state and its remaining sluice work. -/
  | genq (d a b : Byte)
  /-- GREL (R319). Privileged retirement of a closed generation. -/
  | grel (d a b : Byte)
  /-- UNASSIGNED_OPCODE (R30). A word with an unassigned opcode reaches issue and raises the illegal-instruction fault. -/
  | unassignedOpcode (w : Word)
  /-- FETCH_LINE (R13). A split fetches a 128-byte line and its header is checked. -/
  | fetchLine (g e : Nat)
  /-- JET_GRANT (R230). A free jet is granted to a ready split, which issues its run. -/
  | jetGrant (p core : Nat)
  /-- RESULT_RETURN (R18). A variable-latency result is written, clearing its pending bit and waking a waiting split. -/
  | resultReturn (g id : Nat)
  /-- STORE_QUEUE_DEPARTURE (R155). A store leaves its group's FIFO store queue and is tagged with a generation. -/
  | storeQueueDeparture (g : Nat)
  /-- SLICE_APPLY (R157). A home slice applies a store or atomic in total store order. -/
  | sliceApply (slice : Nat)
  /-- ACKNOWLEDGEMENT (R145). A store or atomic acknowledgement returns and frees its miss-table entry. -/
  | acknowledgement (id : Nat)
  /-- ARBITRATION (R268). An arbitration point serves its next packet by remaining slack. -/
  | arbitration (pt : ArbPoint) (merge : Bool)
  /-- TRANSIT_WINDOW (R266). Every 8 ns, each channel fixes its slot order for the next window. -/
  | transitWindow
  /-- CIRCUIT_IDLE_END (R276). A circuit ends after 64 windows with no flit. -/
  | circuitIdleEnd (wg n : Nat)
  /-- PAGE_WALK (R239). A page walk completes with a translation or a fault, and the parked split can resume. -/
  | pageWalk (g : Nat) (page : Nat)
  /-- CLUSTER_MOVE (R110). Once every resident workgroup has parked or retired, the cluster moves aperture or the move is refused. -/
  | clusterMove (p c : Nat)
  /-- REGISTER_GROWTH (R124). A parked RGROW grows its quads once room appears in their slices. -/
  | registerGrowth (g e : Nat)
  /-- RGROW_FAILURE (R124). When every group on a core is parked at RGROW, the youngest one's RGROW fails. -/
  | rgrowFailure (p core : Nat)
  /-- WAITA_READ (R181). A WAITA word is read again on a store to its sector, or after 4,096 ns. -/
  | waitaRead (g e : Nat)
  /-- COPY_COMMAND_START (R189). The copy engine starts the command at a workgroup's queue head, by least slack. -/
  | copyCommandStart (p core : Nat)
  /-- COPY_SECTOR (R189). A copy sector read returns and the sector is written. -/
  | copySector (wg id k : Nat)
  /-- CHASE_HOP (R192). A chase engine read returns and the walk takes its next hop or stops with a result. -/
  | chaseHop (g id : Nat)
  /-- MATRIX_ALLOCATOR (R199). The core's matrix allocator grants or refuses a MACQ request in arrival order. -/
  | matrixAllocator (p core : Nat)
  /-- MMA_STEP (R205). The engine performs a queued MMA quad-step by quad-step. -/
  | mmaStep (p core : Nat)
  /-- MESSAGE_POST (R217). A host write to the message window enqueues a message or is discarded. -/
  | messagePost (p off : Nat) (bytes : List Byte)
  /-- MESSAGE_WINDOW_READ (R217). A read of the message window returns 0xFF bytes and is logged. -/
  | messageWindowRead (p off : Nat)
  /-- LAUNCH_HANDLER_SPAWN (R219). A launch-handler group is spawned from a run of waiting host messages. -/
  | launchHandlerSpawn (p : Nat)
  /-- MESSAGE_ARRIVAL (R279). An active message enters the destination partition's message queue. -/
  | messageArrival (p : Nat) (m : Msg)
  /-- MESSAGE_HANDLER_SPAWN (R279). A message-handler group is spawned from a run of waiting active messages. -/
  | messageHandlerSpawn (p : Nat)
  /-- DEPENDENCY_READ (R224). A launch dependency is re-read, which makes an entry eligible or discards it. -/
  | dependencyRead (p e k : Nat)
  /-- GANG_PLACEMENT (R226). The distributor forms and places the next gang of an eligible entry. -/
  | gangPlacement (p : Nat)
  /-- PASSED_OVER_LIMIT (R225). After 100 µs passed over, an entry blocks the placement of later entries. -/
  | passedOverLimit (p e : Nat)
  /-- WORKGROUP_RETIREMENT (R121). After its stores drain and its engine work completes, a workgroup releases its grants. -/
  | workgroupRetirement (wg : Nat)
  /-- PEER_LOSS (R245). A peer is lost and its outstanding requests complete with code 13. -/
  | peerLoss (p peer : Nat)
  /-- REPLICA_FORWARD (R282). A replica applies a store forwarded by its primary. -/
  | replicaForward (p set addr : Nat) (bytes : List Byte)
  /-- REPLICA_LOSS (R282). A replica that loses contact with its primary stops serving loads. -/
  | replicaLoss (p set : Nat)
  /-- PRE_EMPTION (R259). A context is pre-empted on clusters and its splits halt. -/
  | preEmption (p : Nat) (clusters : List Nat)
  /-- GRANULE_CLAIM (R260). An incoming context claims a granule, which is first written to the save area. -/
  | granuleClaim (p : Nat) (gr : Granule)
  /-- CONTEXT_RESUME (R262). Spilled granules are restored and the halted splits resume. -/
  | contextResume (p c : Nat)
  /-- RESTART (R328). After draining and scrubbing, the group resumes at its restart point. -/
  | restart (g : Nat)
  /-- SCAN_DRAIN (R333). Every 0.6 ms the next batch of cores begins to drain. -/
  | scanDrain
  /-- SCAN (R334). A core's scan begins: its workgroups halt and its granules are saved. -/
  | scan (core : Nat)
  /-- SCAN_COMPLETION (R335). A scan passes and restores the workgroups, or fails and retires the core. -/
  | scanCompletion (core : Nat) (pass : Bool)
  /-- CUT (R307). At the cut, GENCUR advances and every unit switches its generation tag. -/
  | cut (p : Nat)
  /-- BACKGROUND_COPIER (R310). The copier fills a remaining sector of a new backing. -/
  | backgroundCopier (p blk sector : Nat)
  /-- SLUICE (R315). The sluice copies a superseded HBM backing to the capacity tier and repoints it. -/
  | sluice (p : Nat)
  /-- BANDWIDTH_INTERVAL (R301). Every 1 µs each stack gives each partition its bandwidth credit. -/
  | bandwidthInterval
  /-- MEMORY_THERMAL_STEP (R301). A stack's temperature step changes its deliverable bandwidth. -/
  | memoryThermalStep (stack celsius : Nat)
  /-- POWER_CAP_STEP (R340). Each ms over the power cap the clock is lowered by 5%. -/
  | powerCapStep (watts : Nat)
  /-- DROOP_DETECTION (R341). A detected droop enters its signature into the droop table. -/
  | droopDetection (cl : Nat) (sig : BitVec 24)
  /-- DROOP_PREDICTION (R341). A matching signature stretches the cluster's clock for 64 cycles. -/
  | droopPrediction (cl : Nat) (sig : BitVec 24)
  /-- CONFIDENCE_DECAY (R341). Every 9.6 ms each droop table confidence falls by one. -/
  | confidenceDecay
  /-- CORE_THERMAL (R340). A die sensor at 105 °C halves the clock until it falls below 100 °C. -/
  | coreThermal (die celsius : Nat)
  /-- RAIL_LIMIT (R340). Rail current at 1,800 A stretches the rail's clocks. -/
  | railLimit (r amps : Nat)
  /-- RAIL_TRIP (R358). Rail current of 1,875 A for 1 µs clock-gates the rail's clusters. -/
  | railTrip (r amps : Nat)
  /-- HBM_TRIP (R358). A stack at 110 °C stops issuing until it reaches 100 °C. -/
  | hbmTrip (stack celsius : Nat)
  /-- OVERHEAT (R358). An overheat cuts core, SRAM and HBM power. -/
  | overheat (stackC dieC : Nat)
  /-- PARTITION_RESET (R302). Writing PCTL.RESET freezes, dumps, disowns, clears and reports the partition. -/
  | partitionReset (p : Nat)
  /-- PARTITION_RELOAD (R297). Writing PCTL.RELOAD applies the partition configuration record or refuses it. -/
  | partitionReload (p : Nat) (cfg : PartCfg)
  /-- INVALCFG_CLEAR (R300). A write of 1 clears PCTL.INVALCFG. -/
  | invalcfgClear (p : Nat) (v : Word)
  /-- ERRSTAT_CLEAR (R300). A write of 1 clears ERRSTAT bits. -/
  | errstatClear (p : Nat) (v : Word)
  /-- ERRDROP_READ (R300). Reading ERRDROP returns the drop count and clears it. -/
  | errdropRead (p : Nat)
  /-- ENERGYLO_READ (R343). Reading ENERGYLO returns the low half and latches the high half for the requester. -/
  | energyloRead (p req : Nat)
  /-- ENERGYHI_READ (R343). Reading ENERGYHI returns the requester's latched high half. -/
  | energyhiRead (p req : Nat)
  /-- RAIL_WRITE (R339). A write of a rail register sets APER or FREE, or is ignored. -/
  | railWrite (n : Nat) (v : Word)
  /-- RAIL_SETTLED (R339). A rail's voltage change completes and BUSY clears. -/
  | railSettled (n : Nat)
  /-- LNKCTL_WRITE (R346). A write of a link's control register sets park and enable behaviour. -/
  | lnkctlWrite (n : Nat) (v : Word)
  /-- REGISTER_WRITE (R6). A write to a register that has no row of its own. -/
  | registerWrite (p off : Nat) (v : DWord)
  /-- LINK_PARK (R347). A link idle for PARKHOLD parks on two wavelengths. -/
  | linkPark (n : Nat)
  /-- LINK_WAKE (R347). A parked link starts a wake on queue depth or an overdue packet. -/
  | linkWake (n : Nat)
  /-- WAKE_COMPLETE (R347). Wavelengths lock, the link restripes and it enters state full. -/
  | wakeComplete (n : Nat)
  /-- RING_LOCK_STEP (R348). Every 1 µs the lock loop steps each ring's heater code. -/
  | ringLockStep
  /-- RING_SATURATION (R349). A ring saturated for 100 µs has its wavelength reassigned. -/
  | ringSaturation (fe ring : Nat)
  /-- CLAIM (R354). Observatory command that enters the ownership election. -/
  | claim (who : Claimant)
  /-- RELEASE (R352). Observatory command that gives up ownership. -/
  | release (who : Claimant)
  /-- HANDOVER (R354). Observatory command that offers ownership to a named claimant. -/
  | handover (who : Claimant) (heir : Nat)
  /-- GAUGE (R352). Observatory command that reads a gauge. -/
  | gauge (who : Claimant) (n : Nat)
  /-- LOGREAD (R353). Observatory command that reads log records from a sequence number. -/
  | logread (who : Claimant) (seq : Nat)
  /-- QUOTE (R357). Observatory command that returns a signed attestation quote. -/
  | quote (who : Claimant) (nonce : List Byte)
  /-- IMGWRITE (R356). Observatory command that writes 32 bytes into the inactive image slot. -/
  | imgwrite (who : Claimant) (off : Nat) (bytes : List Byte)
  /-- ACTIVATE (R356). Observatory command that marks the inactive slot for trial. -/
  | activate (who : Claimant)
  /-- POWERCAP (R340). Observatory command that sets the package power cap. -/
  | powercap (who : Claimant) (watts : Nat)
  /-- CLAMP (R352). Observatory command that clamps or releases clusters' clocks. -/
  | clamp (who : Claimant) (mask : BitVec 12) (aper : Nat)
  /-- RAILBOUND (R338). Observatory command that sets the bounds the hypervisor may write to rails. -/
  | railbound (who : Claimant) (rail aper : Nat) (amps : List Nat)
  /-- OWNERSHIP_LAPSE (R354). Ownership lapses when the owner's path fails, and the election restarts. -/
  | ownershipLapse
  /-- HANDOVER_EXPIRY (R354). A handover not claimed within 1 s leaves the old owner in place. -/
  | handoverExpiry
  /-- OBSERVATORY_BOOT (R356). The boot ROM verifies and boots an image, or enters recovery. -/
  | observatoryBoot
  /-- TRIAL_EXPIRY (R356). An image in trial for 60 s without confirmation falls back to the other slot. -/
  | trialExpiry
  /-- MODULE_RESET (R360). At power-up or module reset the module is brought up in order. -/
  | moduleReset
  /-- HEARTBEAT (R354). The board management port's 1 s heartbeat arrives and keeps its ownership from lapsing. -/
  | heartbeat
  /-- IMAGE_CONFIRM (R356). An image booted in trial confirms, becomes active and may raise the anti-rollback fuse count. -/
  | imageConfirm
  /-- CANCELLATION (R236). System software cancels a launch-queue entry or grid, whose completion record is written with STATUS 5. -/
  | cancellation (p crec : Nat)
  /-- CORE_THERMAL_RELEASE (R340). A die sensor falls below 100 °C and the halved clock of the die's clusters is restored. -/
  | coreThermalRelease (die celsius : Nat)
  /-- RAIL_LIMIT_RELEASE (R340). Measured rail current falls below 1,750 A and the rail's clocks stop being stretched. -/
  | railLimitRelease (r amps : Nat)
  /-- RAIL_TRIP_RELEASE (R358). Rail current falls below 1,700 A and the tripped rail's clusters are no longer clock-gated. -/
  | railTripRelease (r amps : Nat)
  /-- HBM_TRIP_RELEASE (R358). A tripped stack cools to 100 °C and its controllers resume issuing waiting requests. -/
  | hbmTripRelease (stack celsius : Nat)
deriving DecidableEq, Repr, Inhabited

end Sys2Proof
end

