-- ==== Sys2Proof/Machine/State.lean ====
section
/-!
DEFINITION. The state of the module: every piece of state the spec gives it, as plain data, with the ways a step can
stop, and the state after reset (R360). Lists are indexed by the numbers the device uses; a thing that has ended keeps
its place in the list with a mark, so that a number never changes its meaning. Sparse maps list only what differs from
their default (zero, unless said otherwise), by rising key.
-/

namespace Sys2Proof.Machine

/-! ## Memory locations and requests -/

/-- A memory a request reaches: kinds 0 to 3 of a page (R141), the replica held by this device (R282), a gang's pool
(R136). For peer and replica, n is partition × 256 + peer or set index. -/
inductive Space where
  | hbm | cap | host
  | peer (n : Nat)          -- n beyond every partition's peers: the primary of a replica set (primaryOf)
  | replica (n : Nat)
  | pool (gang : Nat)
deriving DecidableEq, Repr, Inhabited

/-- A byte location. -/
structure Loc where
  space : Space := .hbm
  addr : Nat := 0
deriving DecidableEq, Repr, Inhabited

/-- The slack of a packet (R268, R269): initial slack in 4 ns, time of issue, report option of its class at issue. -/
structure Slack where
  s : Nat := 4095
  t0 : Nat := 0
  report : Bool := false
deriving DecidableEq, Repr, Inhabited

/-- Where a packet stands (R265, R266, Table 16.1). -/
inductive Stage where
  | core                    -- in its group's store queue, or in the core
  | cluster                 -- at the cluster crossbar
  | announced (w : Nat)     -- announced to its home channel in window w
  | slice (w : Nat)         -- sent in a slot of window w; at its slice
  | admission               -- a slice miss that its controller has not admitted yet (R301)
  | controller              -- a slice miss at its controller queue
  | chase                   -- a walk waiting at its stack's chase engine
  | link                    -- at a Blurus link queue
  | served                  -- served at its home; the reply returns
deriving DecidableEq, Repr, Inhabited

/-- A leaf translation (R238, R241): base of the frame, page size, attributes, and for kind 3 the incarnation (R244). -/
structure Leaf where
  frame : Nat := 0          -- FRAME, PA[51:16]
  large : Bool := false
  kind : Nat := 0
  peer : Nat := 0
  repl : Bool := false
  user : Bool := false
  write : Bool := false
  nx : Bool := false
  inc : Nat := 0
deriving DecidableEq, Repr, Inhabited

/-- What a walk gave (R239): a leaf, or a failure that remembers whether FT was set (R249). -/
inductive Walk where
  | leaf (l : Leaf)
  | bad (ft : Bool)
  | foreign (frame : Nat)   -- R298
  | lostPeer                -- R245
deriving DecidableEq, Repr, Inhabited

/-- A cached translation (R241): its core or cluster, partition, first page of the mapping (VA[51:16]), leaf. -/
structure TlbEntry where
  core : Nat
  part : Nat
  page : Nat
  leaf : Leaf
deriving DecidableEq, Repr, Inhabited

/-- What a variable-latency request brings back. -/
inductive Fetched where
  | mem (loc : Loc) (size : Nat) (sx : Bool)            -- a load (R172)
  | view (loc : Loc) (size : Nat) (sx : Bool) (gen : Nat) -- LDV of a closed generation (R317)
  | entry (loc : Loc)                                   -- a JT entry load (R118)
  | atomic                                              -- filled where the atomic is performed (R148)
  | walk                                                -- filled by a chase walk (R192)
  | genq (gen : Nat)                                    -- the generation controller (R318)
  | known                                               -- filled when it was made
  | queued                                              -- the same, with a gang queue's reply (R184, R269)
  | prefetch (loc : Loc)                                -- PREF: no result (R173)
  | watch (loc : Loc)                                   -- WAITA's read of a word of another device (R181, R281)
deriving DecidableEq, Repr, Inhabited

/-- An outstanding variable-latency request (R18, R19): it keeps its destination registers pending. -/
structure Req where
  id : Nat := 0
  iid : Nat := 0                 -- serial of the instruction that made it
  what : Fetched := .known
  file : Table.RFile := .vec
  lane : Nat := 0                -- the lane the request belongs to
  lanes : LaneMask := 0          -- lanes written (a sequencer result: one lane of each quad written)
  base : Nat := 0
  regs : Nat := 1
  data : Option (List Word) := none
  poisoned : Bool := false
  va : DWord := 0
  acq : Bool := false
  wide : Bool := false           -- an acquire that reaches beyond its cluster (R150)
  slack : Slack := {}
  stage : Stage := .served
  mark : Nat := 0                -- 13 when its peer was lost (R245); code, plus 256 for FT, of a failed JT entry load (R119)
  back : Bool := false           -- a JT entry load that has returned
  peerInc : Nat := 0             -- the incarnation of its peer when it was sent (R244)
deriving DecidableEq, Repr, Inhabited

/-- Operations performed at memory. -/
inductive MemOp where
  | store (bytes : List Byte)
  | atomic (op : Nat) (ty : Nat) (x y : Nat)   -- opcode 0x90 to 0x99, TYPE, operand, second operand of ACAS
  | cprd
  | redx (x : Int)               -- the converted value (R58)
deriving DecidableEq, Repr, Inhabited

/-- A store or atomic in its group's store queue (R155) or on its way (R266). -/
structure Write where
  id : Nat := 0
  iid : Nat := 0
  part : Nat := 0
  core : Nat := 0
  group : Nat := 0
  wg : Nat := 0
  lane : Nat := 0
  loc : Loc := {}
  size : Nat := 4
  op : MemOp := .store []
  ret : Option Nat := none       -- the request that awaits the old value
  acq : Bool := false
  rel : Nat := 0                 -- 0 relaxed, 1 release up to cluster scope, 2 release beyond it
  slack : Slack := {}
  stage : Stage := .core
  gen : Nat := 0                 -- generation tag (R307)
  inc : Nat := 0                 -- partition incarnation (R293)
  applied : Bool := false        -- performed at its home; its acknowledgement is outstanding
  va : DWord := 0
  seenBy : List Nat := []        -- groups whose later releases it precedes: they have read it, or acquired since (R152)
  into : Option Nat := none      -- the earlier atomic into which it has been merged (R283)
  piece : Option Nat := none     -- the engine command whose sector it writes (R189)
  bad : List Nat := []           -- its words that came from poisoned sources (R331)
  peerInc : Nat := 0             -- the incarnation of its peer when it was sent (R244)
  lanes : LaneMask := 0          -- the lanes that take its fault (R87)
  waited : Bool := false         -- it has waited at its slice for a frame (R313)
  read : Bool := false           -- another lane has read it since it left its queue (R157)
  tid : Nat := 0                 -- the serial number at which its page was translated (R243)
  ordered : Bool := false        -- of an SST or an atomic: its instruction's writes keep lane order (R87, R159)
deriving DecidableEq, Repr, Inhabited

/-- Kinds of access (R239). -/
inductive Access where
  | read | write | atomic | fetch
deriving DecidableEq, Repr, Inhabited

/-- An access to be made: its lane, the lanes that take its fault, what it is, and what it leaves outstanding. -/
structure Ask where
  iid : Nat := 0                 -- serial of its instruction
  lane : Nat
  who : List Nat
  va : DWord
  size : Nat
  align : Nat
  kind : Access
  pool : Bool := false
  acq : Bool := false
  atom : Nat := 0                -- opcode of an atomic
  lock : Bool := true            -- checked against the range-lock table
  gen : Option Nat := none       -- the closed generation that an LDV reads
  req : Option Req := none       -- its request, but for serial, memory and stage
  write : Option Write := none   -- its write, likewise
  comparand : Word := 0          -- WAITA's
  slack : Slack := {}            -- WAITA's, which has no request of its own until it is translated (R269)
  late : Bool := false           -- it waits for its translation, with its entry of the miss table held (R241)
deriving DecidableEq, Repr, Inhabited

/-- An access instruction that waits for translations (R242): the accesses still to be translated, the registers it keeps
pending, the faults of the others, and the words that a WAITA has found: quad, word, comparand, address. A TLBI waits in the
same way for what was translated before it (R243), a FENCE for what it orders (R174). -/
structure Waiting where
  asks : List Ask := []
  dest : Option (Table.RFile × Nat × Nat) := none
  faults : List (Nat × Nat × DWord) := []
  ft : LaneMask := 0
  words : List (Nat × Loc × Word × DWord) := []
  fpc : DWord := 0               -- the instruction, where the split already stands at the next one
  next : DWord := 0              -- that next one
  upTo : Option Nat := none      -- a TLBI's: the requests below this serial are awaited
  fence : Option (Nat × Bool) := none -- a FENCE's: its kind, and whether it reaches beyond the cluster (R174)
  snap : Option (Nat × Nat) := none -- a SNAP's destination and window, of a split that has met another (R316)
  lanes : LaneMask := 0          -- the active lanes of that FENCE or SNAP
  results : Bool := false        -- the split then waits for its lanes' results (R101)
deriving DecidableEq, Repr, Inhabited

/-! ## Lanes, quads, splits, groups -/

/-- One lane (R11, R23, R49). Vector register words and predicates are zero where not listed. -/
structure Lane where
  v : Cells Word := []
  p : BitVec 16 := 0
  fflags : Word := 0
  fault : Word := 0
  faddr : DWord := 0
  helper : Bool := false
  demoted : Bool := false
  dead : Bool := false
  exited : Bool := false
  mark : Option (Nat × DWord) := none  -- code 12 or 13 waiting (R253)
  lost : Option DWord := none          -- first lost store, taken at fence.sys (R245)
  replSeen : Cells Nat := []           -- by replica set: forwards that its later relaxed loads await (R167)
  poison : List Nat := []              -- poisoned vector registers (R331)
  errV : List Nat := []                -- vector words with an uncorrectable error (R327)
  errP : List Nat := []                -- predicates, likewise
  time : Nat := 0                      -- its last reading of %time (R267)
deriving DecidableEq, Repr, Inhabited

/-- One quad and its sequencer (R11, R20, R93). -/
structure Quad where
  q : Nat := 0                   -- %quad
  s : Cells Word := []
  mode : Word := 0
  alloc : Nat := 8
  slice : Nat := 0               -- register slice of its core
  lanes : List Lane := []
  poison : List Nat := []
  errS : List Nat := []
deriving DecidableEq, Repr, Inhabited

/-- STATE of a split table entry (Table 6.4), 0 to 8; 9 is Split.halted. -/
inductive SState where
  | ready | issuing | waitBit | atJoin | atBar | atQueue | atWaita | atRgrow | atApt
deriving DecidableEq, Repr, Inhabited

/-- What a parked split has begun and waits for. -/
inductive Park where
  | walk (ws : List Waiting)                -- translations (R242), of several accesses after a regang (R101)
  | entries                                 -- JT entry loads (R118)
  | bar (gang : Bool) (seq : Nat)           -- an instance of BAR or GBAR (R178, R180)
  | push (queue : Nat) (v : DWord) (k : Slack)
  | pop (queue d : Nat) (k : Slack)
  | waita (cond : Nat) (items : List (Nat × Loc × Word × DWord)) -- quad, word read, comparand, its address (R181)
  | rgrow (p alloc : Nat)
  | apt (p aper : Nat)
  | snap (d : Nat) (window : Nat)           -- SNAP's destination, window of receipt (R316)
  | pendingFault                            -- a fault waits for the handler (R250)
deriving DecidableEq, Repr, Inhabited

/-- Arrival check still to make at the split's PC (R15, R111): the lanes that a transfer sent here, its address and the
instruction after it, whether slot 0 is required (R120), and the region of a BRD or JT (Table 15.4). -/
structure Arrive where
  lanes : LaneMask := 0
  fpc : DWord := 0
  next : DWord := 0
  slot0 : Bool := false
  within : Option Nat := none
deriving DecidableEq, Repr, Inhabited

/-- What RETT does with the returning lanes (Table 15.4). -/
inductive Resume where
  | plain
  | fetch
  | dest (target : DWord)        -- code 7 at a BRD or JT destination
  | jtLoad (region : Nat)
  | before                       -- marked at an instruction that parks or transfers: nothing has executed yet (R253)
deriving DecidableEq, Repr, Inhabited

/-- A fault taken by lanes of one split: code and %faddr by lane (R37). -/
structure Raise where
  entry : Nat := 0
  lanes : List (Nat × Nat × DWord) := []
  ft : LaneMask := 0
  fpc : DWord := 0
  resume : Resume := .plain
  next : Option DWord := none    -- next(FPC), where the split's line does not tell it
  arrive : List Arrive := []     -- arrival checks that the returning lanes have still to make
deriving DecidableEq, Repr, Inhabited

/-- A split table entry (Table 6.4) with the state the rules imply for it. -/
structure Split where
  valid : Bool := false
  handler : Bool := false
  qmask : QuadMask := 0
  st : SState := .ready
  halted : Bool := false
  inner : Option Nat := none     -- innermost region, by its stable number
  pc : DWord := 0
  act : LaneMask := 0            -- lanes of the current pass (R22)
  line : List Byte := []         -- the fetched 128-byte line, empty when none
  lineVa : DWord := 0
  count : Nat := 0               -- instructions of this run (R17)
  ready : List (Table.RFile × Nat × Nat) := [] -- registers written in this run, with the cycle from which they can be read (R61)
  cycle : Nat := 0               -- cycle of this run in which its last instruction issued (R61)
  arrive : List Arrive := []
  rejoin : LaneMask := 0         -- lanes that become active after one instruction (Table 15.4)
  park : Option Park := none
  marked : List (Nat × Nat × DWord) := [] -- lanes that fault at this waiting instruction (R253)
  owed : List Raise := []        -- faults of instructions that it has completed since, to be taken before it issues again
  age : Nat := 0                 -- when it became ready (R230)
  prev : Option Nat := none      -- its age at its last grant (R232)
  overdue : Bool := false        -- R230
  inPass : Option Nat := none    -- the region whose deferred pass it runs (R99, R101)
deriving DecidableEq, Repr, Inhabited

/-- Place of a region record: a table entry 0 to 7, or a spill slot (R105). -/
inductive RegPlace where
  | table (i : Nat)
  | spilled (slot : Nat)
deriving DecidableEq, Repr, Inhabited

/-- A region record (Table 6.5). -/
structure Region where
  num : Nat := 0                 -- stable number: PARENT and INNER name it
  place : RegPlace := .table 0
  parent : Option Nat := none
  arrived : QuadMask := 0
  members : QuadMask := 0
  blanes : LaneMask := 0
  defer : LaneMask := 0
  btarget : Option DWord := none
  dtarget : DWord := 0
  phase : Nat := 0
  joinpc : DWord := 0
  bpc : DWord := 0               -- the BRD or JT that opened it
  bnext : DWord := 0             -- the instruction after that
  isJt : Bool := false           -- a JT opened it
  after : Option DWord := none   -- the instruction after the JOIN, once a split has executed it
  stamp : Nat := 0               -- last use (R105)
  lanes : LaneMask := 0          -- lanes active when it was opened
  pass : Option Nat := none      -- the deferred pass in which it was opened
deriving DecidableEq, Repr, Inhabited

/-- The running handler (R247, Table 15.3). -/
structure Frame where
  rentry : Nat := 0
  va : DWord := 0
  inner : Option Nat := none
  flanes : LaneMask := 0
  wlanes : LaneMask := 0
  fpc : DWord := 0
  resume : Resume := .plain
  next : DWord := 0              -- next(FPC)
  arrive : List Arrive := []
  held : LaneMask := 0           -- WLANES that were to become active only after FPC's instruction (Table 15.4)
  owed : List Raise := []
  arg : DWord := 0               -- s52:2 at entry
deriving DecidableEq, Repr, Inhabited

/-- A chase recipe (Table 10.8). -/
structure Recipe where
  nbase : Nat
  nstride : Nat
  flagoff : Nat
  degoff : Nat
  stop : Bool
  hops : Nat
  flagbit : Nat
  adjoff : Nat
  view : Nat
  ncount : Nat
deriving DecidableEq, Repr, Inhabited

/-- A chase walk under way (R192). -/
structure Chase where
  id : Nat                       -- its request
  lane : Nat
  recipe : Recipe
  node : Nat
  seed : Nat
  h : Nat := 0
  user : Bool := true
  links : List Space := []       -- the other devices that it has been sent to in this hop, the last first (R281)
deriving DecidableEq, Repr, Inhabited

/-- One group (R91): its tables, its outstanding work, its restart state (R126, R328, R329). -/
structure Group where
  part : Nat := 0
  wg : Nat := 0                  -- index of its workgroup
  num : Nat := 0                 -- group number in the workgroup
  core : Nat := 0                -- logical core
  slot : Nat := 0                -- group slot of the core (R230)
  super : Bool := false
  gone : Bool := false           -- retired or regrouped
  killed : Bool := false         -- code 19
  stopped : Bool := false        -- halted by a double fault
  quads : List Quad := []
  splits : List Split := []
  regions : List Region := []
  nextRegion : Nat := 0
  frame : Option Frame := none
  waiting : List Raise := []
  reqs : List Req := []
  chases : List Chase := []
  storeQ : List Write := []
  restart : DWord := 0
  idem : Bool := false
  restarts : Nat := 0
  restarting : Bool := false
  resumed : Bool := false        -- a restart has put it at its IDEM, which has not issued since
  restartMem : Nat := 0          -- DETAIL of the restart's error entry
  regionMma : Nat := 0           -- serial + 1 of the MMA that issued in the current idempotent region (R209); 0 none
  writtenV : List Nat := []
  writtenS : List Nat := []
  writtenP : List Nat := []
  residue : Bool := false        -- the next lane result disagrees with its residue (R327)
deriving DecidableEq, Repr, Inhabited

/-! ## Workgroups, gangs, grids -/

/-- A class of the slack table (R269). -/
structure SlackClass where
  s : Nat := 4095
  report : Bool := false
deriving DecidableEq, Repr, Inhabited

/-- A circuit (R274, R275). -/
structure Circuit where
  isOpen : Bool := false
  slice : Nat := 0
  left : Nat := 0
  want : Nat := 0
  idle : Nat := 0                -- windows without a flit
  order : Nat := 0
deriving DecidableEq, Repr, Inhabited

/-- An arrival at a barrier (R178, R180): group, split entry, %quad, mask presented, gang position. -/
structure Arrival where
  group : Nat
  entry : Nat
  q : Nat
  mask : DWord
  pos : Nat := 0
deriving DecidableEq, Repr, Inhabited

/-- A barrier sequence. -/
structure Barrier where
  seq : Nat := 0
  arrivals : List Arrival := []
deriving DecidableEq, Repr, Inhabited

/-- A sector read that a copy engine has sent (R189). -/
structure SectorOp where
  id : Nat                       -- serial of its translation
  k : Nat
  loc : Loc
  slack : Slack
  stage : Stage
  va : Nat := 0
  peerInc : Nat := 0             -- the incarnation of its peer when it was sent (R244)
deriving DecidableEq, Repr, Inhabited

/-- An engine command (Table 10.6, R189). -/
structure Command where
  id : Nat
  kind : Nat
  group : Nat                    -- the group that issued it
  quad : Nat := 0                -- %quad of the quad whose record it copied
  pc : DWord := 0                -- the instruction that issued it (R36)
  slack : Slack
  cls : Nat := 0                 -- the slack class of its packets (R269, R273)
  guard : Nat
  src : Nat
  dst : Nat
  rows : Nat
  rowbytes : Nat
  sstride : Nat
  dstride : Nat
  caddr : Nat
  cval : Word
  fill : Word
  user : Bool := true
  released : Bool := false       -- its guard slot has been true at the queue's head (R186)
  started : Bool := false
  ops : List SectorOp := []      -- sector reads under way
  done : List Nat := []          -- source sectors read, by rising index
  sent : List Nat := []          -- destination sectors written or on their way, by rising index
  buf : List Host.Cell := []     -- payload bytes read and not yet written, by row × ROWBYTES + offset
  bufBad : List Nat := []        -- payload words among them that came from poisoned sources
  after : List Nat := []         -- the queued MMAs that happen before it (R208)
  failed : Option (Nat × Option Nat × Nat) := none -- the fault that stopped it: code, foreign frame, address (R190)
deriving DecidableEq, Repr, Inhabited

/-- A shape record (Table 11.4) with its latched tile (R203). -/
structure Shape where
  defined : Bool := false
  ver : Nat := 0
  addr : Nat := 0
  stride : Nat := 0
  fmt : Nat := 0
  brows : Nat := 0
  kstep : Nat := 0
  tile : Option (List Byte) := none
deriving DecidableEq, Repr, Inhabited

/-- A reservation (Table 11.2) with the accumulator elements it holds, by row × 256 + column (R139). -/
structure Reservation where
  rows : Nat := 8
  windows : Nat := 1
  afmt : Nat := 9
  bfmt : Nat := 9
  block : Nat := 0
  saoff : Nat := 0
  sboff : Nat := 0
  acc : Cells Word := []
  overflow : List Nat := []
  poison : List Nat := []
  err : List Nat := []
  shapes : List Shape := [{}, {}, {}, {}]
deriving DecidableEq, Repr, Inhabited

/-- A workgroup. -/
structure Workgroup where
  part : Nat := 0
  grid : Nat := 0
  gang : Nat := 0
  pos : Nat := 0
  wgid : Word := 0
  wgsz : Nat := 1
  core : Nat := 0
  aper : Nat := 5
  groups : List Nat := []        -- its current groups, in group-number order
  slack : List SlackClass := List.replicate 8 {}
  late : Word := 0
  guards : List Word := []       -- slots: 0 false, 1 true, 2 open
  commands : List Command := []
  bar : Barrier := {}
  macq : Option (Nat × Nat × Reservation) := none -- its request at the allocator: group, request, reservation (R199)
  reserv : Option Reservation := none
  scale : Cells Byte := []       -- its quarter of scale memory
  errScale : List Nat := []
  circuits : List Circuit := [{}, {}, {}, {}]
  reserve : Nat := 0             -- offset of its trap frames in the context reserve (R249)
  spillAt : Nat := 0             -- offset of its spill areas there (R229)
  broken : Bool := false         -- a group of it was killed (R236)
  retired : Bool := false        -- its resources are free (R121)
deriving DecidableEq, Repr, Inhabited

/-- A gang queue (R182). -/
structure Queue where
  defined : Bool := false
  base : Nat := 0
  slotsz : Nat := 4
  slots : Nat := 1
  allow : Nat := 1
  head : Nat := 0
  tail : Nat := 0
  count : Nat := 0
  allowance : Nat := 0
  pushers : List (Nat × Nat) := [] -- parked splits (group, entry), oldest first
  poppers : List (Nat × Nat) := []
deriving DecidableEq, Repr, Inhabited

/-- A gang (R136): its grid, cluster, pool area and queues. -/
structure Gang where
  part : Nat := 0
  grid : Nat := 0
  index : Word := 0
  size : Nat := 1
  cluster : Nat := 0             -- logical cluster
  p : Nat := 0                   -- P, bytes per workgroup
  poolBase : Nat := 0            -- cluster pool offset
  wgs : List Nat := []
  pool : List Host.Cell := []
  poisonPool : List Nat := []    -- poisoned pool words, by address
  queues : List Queue := List.replicate 16 {}
  gbar : Barrier := {}
  retired : Bool := false
deriving DecidableEq, Repr, Inhabited

/-- A launch record as copied (Table 14.1). -/
structure LaunchRec where
  entry : DWord := 0
  args : DWord := 0
  gx : Nat := 1
  gy : Nat := 1
  gz : Nat := 1
  wgsz : Nat := 1
  regs : Nat := 8
  apref : Nat := 5
  alow : Nat := 1
  ahigh : Nat := 7
  movable : Bool := false
  snap : Bool := false
  coop : Bool := false
  flagsRsvd : Nat := 0
  gangp : Nat := 1
  gangf : Nat := 1
  pool : Nat := 0
  accrows : Nat := 0
  guards : Nat := 0
  prio : Nat := 0
  spill : Nat := 0
  fhv : Nat := 0
  slack : List Nat := List.replicate 8 4095
  deps : List DWord := [0, 0, 0, 0]
  crec : DWord := 0
  rsvd : Nat := 0
  home : Option Loc := none      -- where CREC lies, translated once, at acceptance (R222)
deriving DecidableEq, Repr, Inhabited

/-- A launch-queue entry (R224). -/
structure LaunchEntry where
  recd : LaunchRec
  seen : List Nat := [2, 2, 2, 2]  -- STATUS last read of each dependency, 2 for none
  locs : List (Option Loc) := []   -- where it was read
  due : List Nat := []           -- dependencies that have been stored to since
  grid : Option Nat := none      -- once its first gang is placed
  nextWg : Nat := 0
  passed : Option Nat := none    -- since when it has been passed over
  blocking : Bool := false
  order : Nat := 0
deriving DecidableEq, Repr, Inhabited

/-- A grid, or a handler group, which has no completion record (R220). -/
structure Grid where
  part : Nat := 0
  recd : LaunchRec := {}
  handlerGroup : Bool := false
  message : Bool := false        -- a message-handler group (R279)
  wgs : Nat := 0                 -- workgroups in all
  placed : Nat := 0
  gangs : Nat := 0
  finished : Nat := 0
  faulted : Bool := false
  forced : Nat := 0              -- final STATUS forced from outside: 5 cancelled, 3 by a shrink; 0 none
  ended : Bool := false          -- its final STATUS is written
  faults : Nat := 0
  wgdone : Nat := 0
  late : Nat := 0
  sovf : Nat := 0
  deadLanes : Nat := 0
  ran : List Nat := []           -- apertures at which a workgroup of it ran, rising (R233)
  cores : BitVec 128 := 0
  start : Nat := 0
deriving DecidableEq, Repr, Inhabited

/-! ## Partitions and generations -/

/-- An active message on its way (R278): destination node, sender workgroup and lane. -/
structure Sent where
  id : Nat
  node : Nat
  msg : Msg
  slack : Slack
  wg : Nat
deriving DecidableEq, Repr, Inhabited

/-- A closed generation (R305): the bytes in which its image differs from the next younger one, and its state code
(Table 20.2). -/
structure Gen where
  num : Nat
  code : Nat := 2
  hbmOld : List Host.Cell := []
  capOld : List Host.Cell := []
  hbmBad : List (Nat × Bool) := []  -- sectors whose poison differs likewise, and whether the image's is poisoned (R317, R331)
  capBad : List (Nat × Bool) := []
deriving DecidableEq, Repr, Inhabited

/-- A superseded backing of a block (R310): kind 0 HBM or 1 capacity; the oldest and the youngest generation that can
reach it. -/
structure Backing where
  kind : Nat
  blk : Nat
  lo : Nat
  hi : Nat
  frame : Nat
  moved : Bool := false          -- the sluice has moved it to the capacity tier
deriving DecidableEq, Repr, Inhabited

/-- The live backing of a block that has one of its own: the generation it was taken in and the sectors of its map. -/
structure LiveBlk where
  kind : Nat
  blk : Nat
  gen : Nat
  frame : Nat
  filled : List Nat := []        -- sectors whose map bit is set, by rising number
  full : Bool := false
deriving DecidableEq, Repr, Inhabited

/-- A confirmation-list entry (R321): completion record, cores, END, cores that have passed a scan since. -/
structure Confirm where
  home : Option Loc              -- where the completion record lies
  cores : BitVec 128
  fin : Nat
  passed : BitVec 128 := 0
deriving DecidableEq, Repr, Inhabited

/-- A partition (R293, R294, Tables 19.1, 19.3, 20.1, 22.5). -/
structure Partition where
  cfg : Option PartCfg := none
  inc : Nat := 0
  frozen : Bool := false
  frozenAt : Nat := 0            -- when it was frozen (R302)
  fenceAt : Option Nat := none   -- a reload has its translations dropped: requests below this serial are awaited (R297)
  coming : List Nat := []        -- the logical clusters that this reload brings back, once its translations are gone (R297)
  resetReads : Bool := false
  reload : Bool := false
  invalcfg : Bool := false
  errstat : BitVec 16 := 0
  errmask : BitVec 16 := 0x0080
  errprod : Word := 0
  errcons : Word := 0
  errdrop : Word := 0
  msix : Nat := 0
  energy : Nat := 0
  energyHi : Cells Word := []    -- latches by requester (R343)
  sluiceOn : Bool := true
  dropPolicy : Bool := false
  gencur : Nat := 1
  cuts : List Nat := []          -- windows in which requests came whose cut is to come (R307, R316)
  grhlist : DWord := 0
  grhcnt : Word := 0
  grclist : DWord := 0
  grccnt : Word := 0
  hbmFree : List Nat := []       -- reserve frames free (GRHFREE counts them)
  capFree : List Nat := []
  hbmList : List Nat := []       -- frames of the lists as loaded (R312)
  capList : List Nat := []
  leftList : List (Nat × Nat) := []  -- kind and frame: left a list while in use (R312)
  returned : List (Nat × Nat) := []  -- kind and frame: owned again, its ownership bit still to be set
  taken : List (Nat × Nat) := []     -- kind and frame: listed as a reserve, its ownership bit still to be cleared
  owing : List (Nat × Nat) := []     -- kind and block: a write there needs a frame, though no generation is left to drop (R313)
  gens : List Gen := []          -- held closed generations, oldest first
  pastGens : List (Nat × Nat) := [] -- remembered states of closed, no longer held generations
  backings : List Backing := []
  live : List LiveBlk := []
  launchQ : List LaunchEntry := []
  hostQ : List (List Byte × Nat) := [] -- waiting host messages with their sequence numbers (R219)
  accepted : Nat := 0
  msgQ : List Msg := []
  msgOut : List Sent := []       -- messages on their way, oldest first (R278)
  recipes : List (Nat × Recipe) := []
  replicasLost : List Nat := []
  replFwd : List (Nat × Nat × List Byte) := [] -- stores the primary has applied and not yet forwarded: set, address, bytes
  replDone : Cells Nat := []       -- by replica set: stores forwarded to this device's replica
  confirm : List Confirm := []
  finals : List Nat := []        -- grids whose final write waits for a confirmation entry or a frame (R321, R313)
  preempted : List Nat := []     -- logical clusters whose splits are halted (R259)
  saved : List Granule := []     -- granules written to the save area (R260)
deriving DecidableEq, Repr, Inhabited

/-! ## Core, cluster and module state -/

/-- One lane's part of an MMA: its row, its quad's RND, its A bytes. -/
structure MmaLane where
  lane : Nat
  row : Nat
  rnd : Nat
  a : List Byte
deriving DecidableEq, Repr, Inhabited

/-- A queued MMA (R204, R205) with the lanes that perform it. -/
structure Mma where
  id : Nat
  wg : Nat
  group : Nat
  window : Nat
  shape : Shape                  -- the shape record as it stood at issue, with its tile once it is latched
  reader : Nat                   -- the lane whose loads read the tile (R203)
  pc : DWord := 0                -- the instruction (R36)
  seenBy : List Nat := []        -- groups that have acquired since it was queued: their later copies follow it (R208)
  lanes : List MmaLane
deriving DecidableEq, Repr, Inhabited

/-- A logical core's matrix queue and what scan and reliability keep for it (R205, R333). -/
structure Core where
  mmas : List Mma := []
  checksumBad : Bool := false
  draining : Bool := false
  scanning : Bool := false
  drainStart : Nat := 0
  forward : Bool := false
  cycle : Nat := 0
deriving DecidableEq, Repr, Inhabited

/-- A droop table entry (R341). -/
structure Droop where
  sig : BitVec 24
  conf : Nat
  used : Nat
deriving DecidableEq, Repr, Inhabited

/-- An entry of a cluster's contention predictor (R148): a 128-byte line, its 2-bit count, and the atomics performed locally
since the line was last recalled or its count last fell. -/
structure Contended where
  line : Loc
  count : Nat := 0
  localRuns : Nat := 0
deriving DecidableEq, Repr, Inhabited

/-- A physical cluster: its rail, aperture, clamp and throttles (R337, R340). -/
structure Cluster where
  rail : Nat := 1
  aper : Nat := 0                -- aperture it runs at; 0 none
  connected : Bool := false
  movable : Bool := false
  switching : Bool := false      -- the distributor has its rail's voltage moved for it (R228)
  clamp : Nat := 0               -- aperture of the management clamp, 0 none
  droop : List Droop := []
  droopCycles : Nat := 0         -- cycles stretched on droop predictions
  thermal : Bool := false
  spares : Nat := 1              -- spare cores left (R295)
  goodCores : List Nat := [0, 1, 2, 3, 4, 5, 6, 7]  -- the core that serves each logical core, 255 none
  spareScan : Bool := false      -- its spare core is being scanned (R360)
  predictor : List Contended := []  -- newest first, at most 256 (R148)
deriving DecidableEq, Repr, Inhabited

/-- A rail (Table 22.3). -/
structure Rail where
  free : Bool := false
  busy : Bool := false
  aper : Nat := 0
  limited : Bool := false        -- its clusters' clocks are stretched (R340)
  tripped : Bool := false        -- its clusters are clock-gated (R358)
  boundAper : Nat := 0           -- apertures the Observatory lets the hypervisor write: 0 any
  boundAmps : List Nat := []     -- per partition, empty: no bound
deriving DecidableEq, Repr, Inhabited

/-- A sector that a slice has written in its cache and has still to bring to its controller (R301): serial, partition, core,
workgroup, slack, slice, whether it is of the capacity tier, and where the request stands. -/
structure WriteOut where
  id : Nat
  part : Nat
  core : Nat
  wg : Nat
  slack : Slack
  slice : Nat
  cap : Bool := false
  stage : Stage := .admission
deriving DecidableEq, Repr, Inhabited

/-- A memory stack (R301, R358). -/
structure Stack where
  step : Nat := 0
  tripped : Bool := false
  credit : List Nat := List.replicate 12 0
  outs : List WriteOut := []
deriving DecidableEq, Repr, Inhabited

/-- STATE of a link (Table 23.1). -/
inductive LinkState where
  | off | training | full | parked | waking | down
deriving DecidableEq, Repr, Inhabited

/-- An optical link (Table 23.1, R347). -/
structure Link where
  parkhold : BitVec 8 := 20
  wakeq : BitVec 8 := 8
  parken : Bool := false
  enable : Bool := true
  active : BitVec 8 := 0
  retired : BitVec 8 := 0
  rxspare : Bool := false
  txspare : Bool := false
  st : LinkState := .off
  since : Nat := 0               -- when its queue last held a packet, or when its wake began
  acked : Bool := true           -- the receiver has acknowledged its last restripe (R345)
  beats : List Nat := []         -- the wavelengths that carried the eight beats of its last flit (R344)
deriving DecidableEq, Repr, Inhabited

/-- A fibre end (R347 to R350), transmit (even) or receive: heater codes of rings 0 to 16, the wavelength whose reassignment
took the spare. -/
structure FibreEnd where
  codes : List Nat := List.replicate 17 0
  spare : Option Nat := none
  locked : BitVec 17 := 0xFFFF   -- rings that are locked
  tuning : BitVec 16 := 0        -- wavelengths under reassignment, until they lock
  lit : BitVec 16 := 0xFFFF      -- wavelengths whose laser is on (transmit ends)
  drive : Nat := 0               -- drive of its lasers in mW (Table 23.3)
  photo : List Nat := List.replicate 17 0   -- photodiodes: tenths of a dB below the peak
  stuck : List (Option Nat) := List.replicate 17 none -- since when a ring stands at a limit with a photodiode 3 dB down (R349)
  target : List Nat := List.replicate 17 0  -- the lock loops' targets
  clamped : BitVec 17 := 0       -- rings whose code the heater limit of the end holds below what was asked (R358)
deriving DecidableEq, Repr, Inhabited

/-- An image slot (R356). -/
structure ImageSlot where
  bytes : Cells Byte := []
  version : Nat := 0
deriving DecidableEq, Repr, Inhabited

/-- A record of the persistent log (R353). -/
structure LogRec where
  seq : Nat
  boot : Nat
  time : Nat
  source : Nat
  kind : Nat
  detail : Nat
deriving DecidableEq, Repr, Inhabited

/-- The Observatory (R351 to R357). -/
structure Observatory where
  owner : Option Claimant := none
  claims : List Claimant := []             -- claims of this very timestamp, still to be settled (R354)
  offer : Option (Claimant × Nat) := none  -- handover offered, until when
  boot : Nat := 0                          -- the module's boot count
  log : List LogRec := []                  -- newest first
  logSeq : Nat := 0
  slotA : ImageSlot := {}
  slotB : ImageSlot := {}
  activeB : Bool := false                  -- slot B is the active one
  runningB : Bool := false                 -- slot B is the one that runs
  marked : Bool := false                   -- the inactive slot is marked for trial
  trial : Option Nat := none               -- the image runs in trial, since when
  recovery : Bool := false
  recoverer : Option Claimant := none      -- first claimant in recovery
  fuse : Nat := 0
  cap : Nat := 3600                        -- package power cap in W
  lowered : Nat := 0                       -- 5% steps of the power cap now applied
  heartbeat : Nat := 0                     -- last heartbeat of the management port
  answers : List (List (List Byte)) := [[], [], []] -- the messages of the last response to each claimant (R352)
  priv : Cells Byte := []                  -- 256 KiB of private memory
  cpu : Group := {}                        -- its Ighal quad, always in supervisor mode, with its split table (R351)
  unit : Workgroup := {}                   -- what its instructions find of a workgroup
  logNext : List Nat := [0, 0, 0]          -- the record after the last that each claimant has read (R352)
deriving DecidableEq, Repr, Inhabited

/-! ## The module -/

/-- Which agent moves next: a split issues one instruction, an event of the table happens, an upset strikes, a
translation-cache entry is replaced (R241 leaves replacement invisible; cores, then 96 + c a cluster), a store or an atomic of
a peer's lane src arrives with its slack (R281, R307), system software has a replica of a set brought up again (R282), the energy counter of a
partition is read whole (R343), a receiver acknowledges a restripe (R345), a reassigned wavelength locks (R350), the Observatory sets
a lock loop's target or a laser drive (R348, R358), a claimant sends a request or asks for the next log record (R352), a split of the
Observatory's quad has its turn, or its firmware reaches into the module's memory, whose word a lane's register receives (R351). -/
inductive Turn where
  | issue (g e : Nat)
  | act (i : Instr)
  | upset (u : Upset)
  | evict (core page : Nat)
  | remote (p src : Nat) (loc : Loc) (op : MemOp) (size : Nat) (slack : Slack)
  | resync (p set : Nat)
  | energy (p : Nat)
  | linkAck (n : Nat)
  | ringLock (fe wave : Nat)
  | ringTarget (fe ring v : Nat)
  | laserDrive (fe mw : Nat)
  | request (who : Claimant) (bytes : List Byte)
  | logMore (who : Claimant)
  | firmware (e : Nat)
  | tag15 (kind addr : Nat) (store : Option (List Byte)) (lane reg : Nat)
deriving DecidableEq, Repr, Inhabited

/-- The state of the module. -/
structure State where
  agenda : List Turn := []       -- the model's own: who moves next
  tick : Nat := 0                -- the model's own: steps taken, argument of the free values
  cur : Option (Nat × Nat) := none -- the model's own: group and entry whose instruction exec runs
  nextId : Nat := 0              -- the model's own: serial numbers
  now : Nat := 0                 -- global timestamp in ns (R267, R355)
  interval : Nat := 0            -- the 1 µs interval whose credit the stacks have given (R301)
  ringStep : Nat := 0            -- the first 1 µs interval in which the lock loops have still to step (R348)
  hbm : List Host.Cell := []
  cap : List Host.Cell := []
  host : List Host.Cell := []
  peer : List Host.Cell := []    -- peer memories, by (partition × 256 + peer) × 2^52 + address
  replica : List Host.Cell := [] -- replicas held by this device, keyed alike
  poison : List Nat := []        -- poisoned sectors of HBM, by address / 32
  poisonCap : List Nat := []
  tlb : List TlbEntry := []      -- the cores' translation caches, newest first
  ctlb : List TlbEntry := []     -- the clusters' translation caches, the core field naming the cluster
  flight : List Write := []      -- packets between store queue and acknowledgement, oldest first
  groups : List Group := []
  wgs : List Workgroup := []
  gangs : List Gang := []
  grids : List Grid := []
  parts : List Partition := List.replicate 12 {}
  cores : List Core := List.replicate 96 {}
  clusters : List Cluster := List.replicate 12 {}
  rails : List Rail := [{}, {}, {}, {}]
  hbmStacks : List Stack := List.replicate 12 {}
  owners : List (Loc × Nat) := []  -- lines in the atomic ownership of a physical cluster (R148)
  dieHot : List Bool := [false, false, false, false]
  off : Bool := false            -- overheat has cut the power (R358)
  links : List Link := List.replicate 48 {}
  fibres : List FibreEnd := List.replicate 48 {}
  obs : Observatory := {}
  isReady : Bool := true         -- register 0x0000 bit 0 (R360)
  scanPos : Nat := 0             -- next batch of the rotation (R333)
  lastRead : DWord := 0          -- value returned by the last register read of the outside world
deriving DecidableEq, Repr, Inhabited

/-- The machine stops in a state that no run from reset reaches. Safe: a claim about a next state says nothing there. -/
inductive Fault where
  /-- exec of an instruction where no valid split is the issuing one: raised by every instruction. Safe. -/
  | noIssuingSplit
deriving DecidableEq, Repr, Inhabited

/-- A meaning is missing. -/
inductive Refusal where
  /-- No meaning has been written for the instruction of this mnemonic: raised by arms of Dispatch only. Safe. -/
  | notModelled (mnemonic : String)
deriving DecidableEq, Repr, Inhabited

/-- The outcome of a step. -/
abbrev Out := Host.Outcome State Fault Refusal

/-- The state after the bring-up of R360 with the values the registers' tables give: no partition is configured, all
memory reads zero, the core rails stand at A5 with no cluster connected, and the links have trained on every wavelength. -/
def State.reset : State :=
  { rails := [{ aper := 5 }, { aper := 5 }, { aper := 5 }, { aper := 5 }]
    links := List.replicate 48 { st := .full, active := 0xFF } }

end Sys2Proof.Machine

namespace Sys2Proof.Config

/-- Free: the agent that moves when the agenda is empty. -/
opaque nextTurn : Nat → Sys2Proof.Machine.Turn

end Sys2Proof.Config
end

