-- ==== Sys2Proof/Machine/Access.lean ====
section
/-!
DEFINITION. Reading and writing the parts of State by their numbers, and the registers of R10 and R11 through the one
operation of each file. A number that names nothing reads as the default record and is not written.
-/

namespace Sys2Proof.Machine

def groupAt (s : State) (g : Nat) : Group := nth {} s.groups g
def modGroup (s : State) (g : Nat) (f : Group → Group) : State := { s with groups := upd s.groups g f }
def wgAt (s : State) (w : Nat) : Workgroup := nth {} s.wgs w
def modWg (s : State) (w : Nat) (f : Workgroup → Workgroup) : State := { s with wgs := upd s.wgs w f }
def gangAt (s : State) (k : Nat) : Gang := nth {} s.gangs k
def modGang (s : State) (k : Nat) (f : Gang → Gang) : State := { s with gangs := upd s.gangs k f }
def gridAt (s : State) (k : Nat) : Grid := nth {} s.grids k
def modGrid (s : State) (k : Nat) (f : Grid → Grid) : State := { s with grids := upd s.grids k f }
def partAt (s : State) (p : Nat) : Partition := nth {} s.parts p
def modPart (s : State) (p : Nat) (f : Partition → Partition) : State := { s with parts := upd s.parts p f }
def clusterAt (s : State) (c : Nat) : Cluster := nth {} s.clusters c
def modCluster (s : State) (c : Nat) (f : Cluster → Cluster) : State := { s with clusters := upd s.clusters c f }

/-- The configuration of a partition; the empty record where none is applied. -/
def cfgOf (s : State) (p : Nat) : PartCfg := (partAt s p).cfg.getD {}

/-- Physical cluster that serves a logical cluster of a partition (R294, R295). -/
def physCluster (s : State) (p k : Nat) : Nat := nth 255 (cfgOf s p).clmap k

/-- Key of a logical core in State.cores: physical cluster × 8 + logical core within it. -/
def coreKey (s : State) (p core : Nat) : Nat := physCluster s p (core / 8) * 8 + core % 8
def coreAt (s : State) (p core : Nat) : Core := nth {} s.cores (coreKey s p core)
def modCore (s : State) (p core : Nat) (f : Core → Core) : State :=
  { s with cores := upd s.cores (coreKey s p core) f }

def quadAt (gr : Group) (k : Nat) : Quad := nth {} gr.quads k
def modQuad (gr : Group) (k : Nat) (f : Quad → Quad) : Group := { gr with quads := upd gr.quads k f }
/-- Lane %lane = l of a group. -/
def laneAt (gr : Group) (l : Nat) : Lane := nth {} (quadAt gr (l / 4)).lanes (l % 4)
def modLane (gr : Group) (l : Nat) (f : Lane → Lane) : Group :=
  modQuad gr (l / 4) fun q => { q with lanes := upd q.lanes (l % 4) f }
def splitAt (gr : Group) (e : Nat) : Split := nth {} gr.splits e
def modSplit (gr : Group) (e : Nat) (f : Split → Split) : Group := { gr with splits := upd gr.splits e f }

/-- A lane that exists and is neither dead nor exited. -/
def laneLive (gr : Group) (l : Nat) : Bool :=
  decide (l < 4 * gr.quads.length) && !(laneAt gr l).dead && !(laneAt gr l).exited

/-- A live lane that is not a helper lane. -/
def laneReal (gr : Group) (l : Nat) : Bool := laneLive gr l && !(laneAt gr l).helper

/-- The live lanes of a group. -/
def liveLanes (gr : Group) : List Nat := (List.range (4 * gr.quads.length)).filter (laneLive gr)

/-- The lanes of a quad of a group, as a mask. -/
def quadLanes (k : Nat) : LaneMask := (15 : LaneMask) <<< (4 * k)
/-- The lanes of a set of quads. -/
def lanesOfQuads (m : QuadMask) : LaneMask := (bitsOf m).foldl (fun acc k => acc ||| quadLanes k) 0
/-- The quads that hold a lane of a mask. -/
def quadsOfLanes (m : LaneMask) : QuadMask :=
  maskOf 16 ((List.range 16).filter fun k => (m &&& quadLanes k) != 0)

/-- %tid of a lane (Table 2.5, R122): 4 × %quad + %qlane, plus 256 once demoted. -/
def tidOf (gr : Group) (l : Nat) : Nat :=
  4 * (quadAt gr (l / 4)).q + l % 4 + (if (laneAt gr l).demoted then 256 else 0)

/-! Registers. -/

/-- v[r] of a lane. -/
def vGet (gr : Group) (l r : Nat) : Word := cellGet 0 r (laneAt gr l).v
/-- The pair v[r:2] of a lane. -/
def vPair (gr : Group) (l r : Nat) : DWord := pairVal (vGet gr l r) (vGet gr l (r + 1))
/-- Writes v[r] of a lane: the word is then neither poisoned nor errored, and the group's written bit is set (R329, R331). -/
def vSet (gr : Group) (l r : Nat) (x : Word) : Group :=
  let gr := modLane gr l fun ln =>
    { ln with v := cellPut 0 r x ln.v, poison := setDel r ln.poison, errV := setDel r ln.errV }
  { gr with writtenV := setAdd r gr.writtenV }
/-- Writes a run of registers from r. -/
def vSetRun (gr : Group) (l r : Nat) : List Word → Group
  | [] => gr
  | x :: xs => vSetRun (vSet gr l r x) l (r + 1) xs
/-- Writes the pair v[r:2]. -/
def vSetPair (gr : Group) (l r : Nat) (x : DWord) : Group := vSetRun gr l r [loWord x, hiWord x]

/-- p[r] of a lane: p0 reads 1 (R11). -/
def pGet (gr : Group) (l r : Nat) : Bool := r == 0 || (laneAt gr l).p.getLsbD r
/-- Writes p[r] of a lane; a write to p0 is discarded (R11). -/
def pSet (gr : Group) (l r : Nat) (x : Bool) : Group :=
  if r == 0 || 16 ≤ r then gr else
    let gr := modLane gr l fun ln =>
      { ln with p := if x then ln.p ||| BitVec.twoPow 16 r else ln.p &&& ~~~(BitVec.twoPow 16 r), errP := setDel r ln.errP }
    { gr with writtenP := setAdd r gr.writtenP }

/-- s[r] of a quad. -/
def sGet (gr : Group) (k r : Nat) : Word := cellGet 0 r (quadAt gr k).s
/-- The pair s[r:2] of a quad. -/
def sPair (gr : Group) (k r : Nat) : DWord := pairVal (sGet gr k r) (sGet gr k (r + 1))
/-- Writes s[r] of a quad. -/
def sSet (gr : Group) (k r : Nat) (x : Word) : Group :=
  let gr := modQuad gr k fun q =>
    { q with s := cellPut 0 r x q.s, poison := setDel r q.poison, errS := setDel r q.errS }
  { gr with writtenS := setAdd r gr.writtenS }
/-- Writes the pair s[r:2] of a quad. -/
def sSetPair (gr : Group) (k r : Nat) (x : DWord) : Group := sSet (sSet gr k r (loWord x)) k (r + 1) (hiWord x)

/-- The mode word of a quad. -/
def modeOf (gr : Group) (k : Nat) : Word := (quadAt gr k).mode
def setMode (gr : Group) (k : Nat) (m : Word) : Group := modQuad gr k fun q => { q with mode := m }

/-- guard(L) of R22. -/
def guardOn (gr : Group) (l : Nat) : Bool :=
  let m := modeOf gr (l / 4)
  pGet gr l (Table.guardOf m) != Table.gnegOf m

/-- Sets flag bits of a lane (R49). -/
def orFlags (gr : Group) (l : Nat) (f : Word) : Group :=
  modLane gr l fun ln => { ln with fflags := ln.fflags ||| f }

/-! Where a group runs. -/

/-- The workgroup, gang and grid of a group. -/
def wgOf (s : State) (g : Nat) : Workgroup := wgAt s (groupAt s g).wg
def gangOf (s : State) (g : Nat) : Gang := gangAt s (wgOf s g).gang
def gridOf (s : State) (g : Nat) : Grid := gridAt s (wgOf s g).grid
/-- %gangsz × P: the pool addresses of a gang lie below it (R136). -/
def poolEnd (s : State) (g : Nat) : Nat := (gangOf s g).size * (gangOf s g).p
/-- Logical cluster of a group. -/
def clusterOf (s : State) (g : Nat) : Nat := (groupAt s g).core / 8

/-- Supervisor mode (R33): a handler split, or a group that runs in supervisor mode. -/
def isSuper (s : State) (g e : Nat) : Bool := (groupAt s g).super || e == 8

/-- The lanes of active(S), ascending (R22). -/
def activeLanes (s : State) (g e : Nat) : List Nat := bitsOf (splitAt (groupAt s g) e).act

/-- A fresh serial number. -/
def fresh (s : State) : Nat × State := (s.nextId, { s with nextId := s.nextId + 1 })

/-- A prefetch awaits no register. -/
def isPrefetch (f : Fetched) : Bool := match f with | .prefetch _ | .watch _ => true | _ => false
/-- A WAITA's read of a word of another device. -/
def isWatch (f : Fetched) : Bool := match f with | .watch _ => true | _ => false

/-- The registers that outstanding requests of a group keep pending (R19); SNAP's is not (R374). -/
def isPending (gr : Group) (file : Table.RFile) (base count : Nat) : Bool :=
  (gr.reqs.any fun r => r.regs != 0 && r.file == file && decide (r.base < base + count) && decide (base < r.base + r.regs)
      && !(file == .prd && r.base == 0)) ||
  (gr.splits.any fun sp => sp.valid &&
    match sp.park, file with
    | some (.rgrow p _), .prd | some (.apt p _), .prd => p != 0 && decide (p < base + count) && decide (base ≤ p)
    | some (.walk ws), _ => ws.any fun w => match w.dest with
      | some (f, b, n) => f == file && decide (b < base + count) && decide (base < b + n)
      | none => false
    | _, _ => false)

/-- An outstanding result of a lane of a split (R18). -/
def splitAwaits (gr : Group) (e : Nat) : Bool :=
  let m := lanesOfQuads (splitAt gr e).qmask
  gr.reqs.any fun r => (r.lanes &&& m) != 0 && !isPrefetch r.what

/-- Whether the splits of a logical core stand still: its partition is frozen (R302), its cluster pre-empted (R259), or the
core scanned (R334). A split that still holds a jet goes on to the end of its run. -/
def coreHalted (s : State) (p core : Nat) : Bool :=
  (partAt s p).frozen || (partAt s p).preempted.contains (core / 8) || (coreAt s p core).scanning

/-- Whether the clock of a core is gated: the rail that its cluster is connected to has tripped (R358). -/
def clockGated (s : State) (p core : Nat) : Bool :=
  (nth {} s.rails ((clusterAt s (physCluster s p (core / 8))).rail - 1)).tripped

/-- A group has read the departed stores of its cluster that meet a condition: its releases from now on order them (R152). -/
def noteSeen (s : State) (g : Nat) (which : Write → Bool) : State :=
  let gr := groupAt s g
  { s with flight := s.flight.map fun w =>
      if !w.applied && w.piece.isNone && w.part == gr.part && w.core / 8 == gr.core / 8 && which w then { w with seenBy := setAdd g w.seenBy }
      else w }

/-- A group acquires: it has seen every departed store of its cluster, and every MMA queued for its workgroup (R208). -/
def noteAcquire (s : State) (g : Nat) : State :=
  let w := (groupAt s g).wg
  let s := noteSeen s g fun _ => true
  if s.cores.all (·.mmas.isEmpty) then s
  else { s with cores := s.cores.map fun c =>
    { c with mmas := c.mmas.map fun m => if m.wg == w then { m with seenBy := setAdd g m.seenBy } else m } }

/-- Whether no store that a group has made or seen is departed and not yet performed (R152). -/
def clusterPerformed (s : State) (g : Nat) : Bool :=
  !(s.flight.any fun w => !w.applied && ((w.group == g && w.piece.isNone) || w.seenBy.contains g))

/-- The slack of a class for a group's packets, issued now (R269). -/
def slackOf (s : State) (g cls : Nat) : Slack :=
  let c := nth {} (wgOf s g).slack cls
  { s := c.s, t0 := s.now, report := c.report }

/-- remaining(t) of R268. -/
def remaining (k : Slack) (now : Nat) : Nat := k.s - (now - k.t0) / 4

/-- Whether one waiting packet goes before another at an arbitration point, whatever their sources (R268). -/
def sooner (now : Nat) (a b : Slack) : Bool :=
  let ra := remaining a now
  let rb := remaining b now
  if ra == 0 && rb == 0 then a.t0 < b.t0 else ra < rb || (ra == rb && a.t0 < b.t0)

end Sys2Proof.Machine
end

