-- ==== Sys2Proof/Machine/Homes.lean ====
section
/-!
DEFINITION. Bytes of memory at their homes, home slices (R144, R146) and pool slices (R137).
-/

namespace Sys2Proof.Machine

/-! ## Homes -/

/-- Key of a peer or replica byte: n × 2^52 + address. -/
def farKey (n a : Nat) : Nat := n * 2 ^ 52 + a

/-- The byte of a location as its home holds it. -/
def homeByte (s : State) (l : Loc) : Byte :=
  match l.space with
  | .hbm => cellGet 0 l.addr s.hbm
  | .cap => cellGet 0 l.addr s.cap
  | .host => cellGet 0 l.addr s.host
  | .peer n => cellGet 0 (farKey n l.addr) s.peer
  | .replica n => cellGet 0 (farKey n l.addr) s.replica
  | .pool k => cellGet 0 l.addr (gangAt s k).pool

/-- Raw write of one byte at its home, without generations. -/
def pokeByte (s : State) (l : Loc) (b : Byte) : State :=
  match l.space with
  | .hbm => { s with hbm := cellPut 0 l.addr b s.hbm }
  | .cap => { s with cap := cellPut 0 l.addr b s.cap }
  | .host => { s with host := cellPut 0 l.addr b s.host }
  | .peer n => { s with peer := cellPut 0 (farKey n l.addr) b s.peer }
  | .replica n => { s with replica := cellPut 0 (farKey n l.addr) b s.replica }
  | .pool k => modGang s k fun gg => { gg with pool := cellPut 0 l.addr b gg.pool }

/-- Raw write of bytes. -/
def pokeBytes (s : State) (l : Loc) : List Byte → State
  | [] => s
  | b :: r => pokeBytes (pokeByte s l b) { l with addr := l.addr + 1 } r

/-- n bytes from a location at their home. -/
def homeBytes (s : State) (l : Loc) (n : Nat) : List Byte :=
  (List.range n).map fun i => homeByte s { l with addr := l.addr + i }

/-- Home slice of a physical frame number (R144, R146). -/
def homeSlice (u : Nat) : Nat :=
  let f (k : Nat) : BitVec 6 := BitVec.ofNat 6 (u / 2 ^ k)
  let x := f 6 ^^^ f 12 ^^^ f 18 ^^^ f 24 ^^^ f 30
  (u % 48 + x.toNat) % 48

/-- Home slice of a location; 0 for those that have none. -/
def sliceOf (l : Loc) : Nat := homeSlice (l.addr / 65536)

/-- The pool slice, a core of the cluster, that holds a pool address, and the offset in it from the area's base (R137). -/
def poolSlice (a : Nat) : Nat := a / 128 % 8
def poolSliceOffset (a : Nat) : Nat := a / 1024 * 128 + a % 128

end Sys2Proof.Machine
end

