-- ==== Sys2Proof/Machine/Ring.lean ====
section
/-!
DEFINITION. The tenant's error ring (R299, R300) and the Observatory's log (R353).
-/

namespace Sys2Proof.Machine

/-- Sets bits of ERRSTAT; MSI-X vector 1 is sent when a bit goes from 0 to 1 while its mask bit is 0 (R300). -/
def setErrstat (pt : Partition) (m : BitVec 16) : Partition :=
  let new := m &&& ~~~pt.errstat
  { pt with errstat := pt.errstat ||| m, msix := if new &&& ~~~pt.errmask != 0 then pt.msix + 1 else pt.msix }

/-- Adds one to a saturating 32-bit count. -/
def satInc (w : Word) : Word := if w == BitVec.allOnes 32 then w else w + 1

/-- The 64 bytes of an entry (R299). -/
def ringBytes (kind seq time addr crec wgid unit detail : Nat) : List Byte :=
  leBytes 4 kind ++ leBytes 4 seq ++ leBytes 8 time ++ leBytes 8 addr ++ leBytes 8 crec ++ leBytes 4 wgid
    ++ leBytes 4 unit ++ leBytes 4 detail ++ leBytes 20 0

/-- A record of the persistent log (R353): it stands behind those of its timestamp from higher source numbers; the ring holds
1,048,576 records. -/
def obsLog (s : State) (source kind detail : Nat) : State :=
  let o := s.obs
  let later := o.log.takeWhile fun r => r.boot == o.boot && r.time == s.now && decide (source < r.source)
  let new : LogRec :=
    { seq := o.logSeq - later.length, boot := o.boot, time := s.now, source := source, kind := kind, detail := detail }
  { s with obs :=
    { o with
      log := (later.map (fun (r : LogRec) => { r with seq := r.seq + 1 }) ++ new :: o.log.drop later.length).take 1048576
      logSeq := o.logSeq + 1 } }

/-- Writes an error-ring entry of a partition, or drops it when the ring is full (R300): wgid and crec of the grid
concerned, 0xFFFF_FFFF and 0 where there is none. DESIGN CHOICE (log 75): unit and address are 0 where R299 and the event's own rule
name none (kinds 1, 2, 3, 12, 13, 14 and 15). What belongs to no partition's work is system traffic, whose events go to
the Observatory's log (R299), under kind 256 and on (log 45). -/
def ringEntry (s : State) (p kind addr crec wgid unit detail : Nat) : State :=
  let pt := partAt s p
  let bit : BitVec 16 := BitVec.twoPow 16 kind
  match pt.cfg with
  | none => obsLog s unit (256 + kind) detail
  | some cfg =>
    if pt.errprod - pt.errcons == BitVec.ofNat 32 cfg.eringCount then
      modPart s p fun pt => setErrstat { pt with errdrop := satInc pt.errdrop } (bit ||| 1)
    else
      let at_ := cfg.eringBase + 64 * (pt.errprod.toNat % cfg.eringCount)
      let s := pokeBytes s ⟨.host, at_⟩
        (ringBytes kind pt.errprod.toNat s.now addr crec wgid unit detail)
      modPart s p fun pt => setErrstat { pt with errprod := pt.errprod + 1 } bit

/-- An entry about a group: its grid's completion record, %wgid and logical core; for a handler group 0 and
0xFFFF_FFFF (R220). -/
def ringGroup (s : State) (g kind addr detail : Nat) : State :=
  let gr := groupAt s g
  ringEntry s gr.part kind addr (gridOf s g).recd.crec.toNat (wgOf s g).wgid.toNat gr.core detail

/-- An entry of kind 6 (R298), for a frame that the slice homing it has found foreign. -/
def ringForeign (s : State) (g : Nat) (va : DWord) (frame : Nat) : State :=
  ringEntry s (groupAt s g).part 6 va.toNat (gridOf s g).recd.crec.toNat (wgOf s g).wgid.toNat (0x100 + homeSlice frame)
    (frame % 2 ^ 32)

/-- A correctable error of a memory class, at an address of a unit (R299, R327). -/
def correctedError (s : State) (p cls addr unit : Nat) : State := ringEntry s p 7 addr 0 0xFFFFFFFF unit cls

end Sys2Proof.Machine
end

