-- ==== Sys2Proof/Machine/Claims.lean ====
section
/-!
DEFINITION. The claimants of the Observatory: their responses (R352) and the settling of their claims (R354).
-/

namespace Sys2Proof.Machine

def modObs (s : State) (f : Observatory → Observatory) : State := { s with obs := f s.obs }

/-- Number of a claimant, which is its source number (R354). -/
def sourceOf (who : Claimant) : Nat := match who with | .host => 0 | .board => 1 | .fabric => 2

/-- The claimant of a number. -/
def claimantOf (n : Nat) : Option Claimant :=
  match n with | 0 => some .host | 1 => some .board | 2 => some .fabric | _ => none

/-- A response message: 64 bytes with the status in byte 0 (R352). DESIGN CHOICE (log 72): what it carries stands from byte 8 on. -/
def message (status : Nat) (b : List Byte) : List Byte :=
  BitVec.ofNat 8 status :: leBytes 7 0 ++ b.take 56 ++ leBytes (56 - b.length) 0

/-- The messages of a response. DESIGN CHOICE (log 72): what does not fit in one goes on in the next. -/
def messages (status : Nat) (b : List Byte) : List (List Byte) :=
  (List.range (max 1 ((b.length + 55) / 56))).map fun i => message status (b.drop (56 * i))

/-- Answers a claimant. -/
def respond (s : State) (who : Claimant) (status : Nat) (bytes : List Byte) : State :=
  modObs s fun o => { o with answers := upd o.answers (sourceOf who) fun _ => messages status bytes }

/-- Makes a claimant the owner; every election is logged (R354). -/
def elect (s : State) (who : Claimant) : State :=
  obsLog (modObs s fun o => { o with owner := some who, offer := none }) (sourceOf who) 4 (sourceOf who)

/-- The claimant whose claim of this timestamp comes first (R354): that of the lowest source number. -/
def firstClaim (s : State) : Option Claimant := ([.host, .board, .fabric] : List Claimant).find? s.obs.claims.contains

/-- The claims of this timestamp are settled (R354): the first is elected, and every other is answered with status 1. -/
def settleClaims (s : State) : State :=
  match firstClaim s with
  | none => s
  | some w =>
    let others := s.obs.claims.filter (· != w)
    others.foldl (fun s c => respond s c 1 []) (respond (elect (modObs s fun o => { o with claims := [] }) w) w 0 [])

end Sys2Proof.Machine
end

