-- ==== Sys2Proof/Decode.lean ====
section
/-!
DEFINITION. The decoder (R8, R9, R29, R30), total on any bytes, and after it the encoder, both written from
Table 3.1. A word is little-endian in memory (R3): the byte at the lowest address holds B, the highest the opcode.
-/

namespace Sys2Proof

/-- The opcode byte of a word (Table 2.1). -/
def opcodeOf (w : Word) : Byte := w.extractLsb' 24 8
/-- The D byte of a word. -/
def fieldD (w : Word) : Byte := w.extractLsb' 16 8
/-- The A byte of a word. -/
def fieldA (w : Word) : Byte := w.extractLsb' 8 8
/-- The B byte of a word. -/
def fieldB (w : Word) : Byte := w.extractLsb' 0 8

/-- Whether an opcode begins a two-word instruction (R9). -/
def isTwoWord (op : Byte) : Bool :=
  op == 0x01 || op == 0x02 || op == 0x03 || op == 0x05 || op == 0x07 || op == 0x3C || op == 0x63

/-- Table 3.1, opcodes 0x00 to 0x0F. -/
def decodeFlow (op : Nat) (d a b : Byte) (l w : Word) : Instr :=
  match op with
  | 0x00 => .nop d a b
  | 0x01 => .bra d a b l
  | 0x02 => .brs d a b l
  | 0x03 => .brd d a b l
  | 0x04 => .join d a b
  | 0x05 => .brk d a b l
  | 0x06 => .jt d a b
  | 0x07 => .call d a b l
  | 0x08 => .calli d a b
  | 0x09 => .ret d a b
  | 0x0A => .exit d a b
  | 0x0B => .demote d a b
  | 0x0C => .apt d a b
  | 0x0D => .rgrow d a b
  | 0x0E => .rshrk d a b
  | 0x0F => .idem d a b
  | _ => .unassignedOpcode w

/-- Table 3.1, opcodes 0x10 to 0x1F. -/
def decodeMode (op : Nat) (d a b : Byte) (_l w : Word) : Instr :=
  match op with
  | 0x10 => .mode d a b
  | 0x11 => .modx d a b
  | 0x12 => .grd d a b
  | 0x13 => .trap d a b
  | 0x14 => .rett d a b
  | 0x15 => .gets d a b
  | 0x16 => .sets d a b
  | 0x17 => .launch d a b
  | 0x18 => .tlbi d a b
  | _ => .unassignedOpcode w

/-- Table 3.1, opcodes 0x20 to 0x2F. -/
def decodeInt (op : Nat) (d a b : Byte) (_l w : Word) : Instr :=
  match op with
  | 0x20 => .add d a b
  | 0x21 => .sub d a b
  | 0x22 => .mul d a b
  | 0x23 => .mulh d a b
  | 0x24 => .mad d a b
  | 0x25 => .min d a b
  | 0x26 => .max d a b
  | 0x27 => .and d a b
  | 0x28 => .or d a b
  | 0x29 => .xor d a b
  | 0x2A => .andn d a b
  | 0x2B => .shl d a b
  | 0x2C => .shr d a b
  | 0x2D => .sar d a b
  | 0x2E => .bfe d a b
  | 0x2F => .bfi d a b
  | _ => .unassignedOpcode w

/-- Table 3.1, opcodes 0x30 to 0x3F. -/
def decodeInt2 (op : Nat) (d a b : Byte) (l w : Word) : Instr :=
  match op with
  | 0x30 => .popc d a b
  | 0x31 => .clz d a b
  | 0x32 => .brev d a b
  | 0x33 => .sel d a b
  | 0x34 => .cmp d a b
  | 0x35 => .addi d a b
  | 0x36 => .shli d a b
  | 0x37 => .shri d a b
  | 0x38 => .sari d a b
  | 0x39 => .mov d a b
  | 0x3A => .movi d a b
  | 0x3B => .movh d a b
  | 0x3C => .lit d a b l
  | 0x3D => .lea d a b
  | 0x3E => .addx d a b
  | _ => .unassignedOpcode w

/-- Table 3.1, opcodes 0x40 to 0x4F. -/
def decodeFloat (op : Nat) (d a b : Byte) (_l w : Word) : Instr :=
  match op with
  | 0x40 => .fadd d a b
  | 0x41 => .fsub d a b
  | 0x42 => .fmul d a b
  | 0x43 => .fma d a b
  | 0x44 => .fnma d a b
  | 0x45 => .fmin d a b
  | 0x46 => .fmax d a b
  | 0x47 => .fcmp d a b
  | 0x48 => .rsq d a b
  | 0x49 => .rcp d a b
  | 0x4A => .ex2 d a b
  | 0x4B => .lg2 d a b
  | 0x4C => .frnd d a b
  | 0x4D => .fcls d a b
  | 0x4E => .cvt d a b
  | 0x4F => .cvtn d a b
  | _ => .unassignedOpcode w

/-- Table 3.1, opcodes 0x50 to 0x6F. -/
def decodeSeq (op : Nat) (d a b : Byte) (l w : Word) : Instr :=
  match op with
  | 0x50 => .cvtw d a b
  | 0x51 => .twos d a b
  | 0x58 => .sadd d a b
  | 0x59 => .ssub d a b
  | 0x5A => .smul d a b
  | 0x5B => .sand d a b
  | 0x5C => .sor d a b
  | 0x5D => .sxor d a b
  | 0x5E => .sshl d a b
  | 0x5F => .sshr d a b
  | 0x60 => .scmp d a b
  | 0x61 => .smov d a b
  | 0x62 => .smovi d a b
  | 0x63 => .slit d a b l
  | 0x64 => .saddx d a b
  | 0x65 => .sld d a b
  | 0x66 => .sst d a b
  | 0x67 => .bcast d a b
  | 0x68 => .rdln d a b
  | _ => .unassignedOpcode w

/-- Table 3.1, opcodes 0x70 to 0x8F. -/
def decodeMem (op : Nat) (d a b : Byte) (_l w : Word) : Instr :=
  match op with
  | 0x70 => .qswz d a b
  | 0x71 => .shfl d a b
  | 0x72 => .shfx d a b
  | 0x73 => .shup d a b
  | 0x74 => .vote d a b
  | 0x75 => .vtst d a b
  | 0x80 => .ld d a b
  | 0x81 => .ldx d a b
  | 0x82 => .st d a b
  | 0x83 => .stx d a b
  | 0x84 => .ldp d a b
  | 0x85 => .stp d a b
  | 0x86 => .ldv d a b
  | 0x87 => .pref d a b
  | 0x88 => .fence d a b
  | _ => .unassignedOpcode w

/-- Table 3.1, opcodes 0x90 to 0x9F. -/
def decodeAtomic (op : Nat) (d a b : Byte) (_l w : Word) : Instr :=
  match op with
  | 0x90 => .aadd d a b
  | 0x91 => .amin d a b
  | 0x92 => .amax d a b
  | 0x93 => .aand d a b
  | 0x94 => .aor d a b
  | 0x95 => .axor d a b
  | 0x96 => .axch d a b
  | 0x97 => .acas d a b
  | 0x98 => .afadd d a b
  | 0x99 => .redc d a b
  | 0x9A => .cprd d a b
  | 0x9B => .redx d a b
  | _ => .unassignedOpcode w

/-- Table 3.1, opcodes 0xA0 to 0xAF. -/
def decodeSync (op : Nat) (d a b : Byte) (_l w : Word) : Instr :=
  match op with
  | 0xA0 => .bar d a b
  | 0xA1 => .gbar d a b
  | 0xA2 => .waita d a b
  | 0xA3 => .qdef d a b
  | 0xA4 => .push d a b
  | 0xA5 => .pop d a b
  | 0xA6 => .pushn d a b
  | 0xA7 => .popn d a b
  | 0xA8 => .gres d a b
  | _ => .unassignedOpcode w

/-- Table 3.1, opcodes 0xB0 to 0xBF. -/
def decodeEngine (op : Nat) (d a b : Byte) (_l w : Word) : Instr :=
  match op with
  | 0xB0 => .copy d a b
  | 0xB1 => .chase d a b
  | 0xB2 => .chdef d a b
  | 0xB3 => .macq d a b
  | 0xB4 => .mrel d a b
  | 0xB5 => .mshp d a b
  | 0xB6 => .mma d a b
  | 0xB7 => .mzero d a b
  | 0xB8 => .mrd d a b
  | 0xB9 => .mwr d a b
  | _ => .unassignedOpcode w

/-- Table 3.1, opcodes 0xC0 to 0xCF. -/
def decodeNet (op : Nat) (d a b : Byte) (_l w : Word) : Instr :=
  match op with
  | 0xC0 => .amsg d a b
  | 0xC1 => .slk d a b
  | 0xC2 => .circ d a b
  | 0xC3 => .crel d a b
  | 0xC4 => .snap d a b
  | 0xC5 => .genq d a b
  | 0xC6 => .grel d a b
  | _ => .unassignedOpcode w

/-- The instruction of a first word w; l is the word that follows it in the line, read only by the seven
two-word instructions (R9). A word whose opcode Table 3.1 leaves unassigned is UNASSIGNED_OPCODE (R30). -/
def decodeWord (w l : Word) : Instr :=
  let op := (opcodeOf w).toNat
  let d := fieldD w
  let a := fieldA w
  let b := fieldB w
  if op < 0x10 then decodeFlow op d a b l w
  else if op < 0x20 then decodeMode op d a b l w
  else if op < 0x30 then decodeInt op d a b l w
  else if op < 0x40 then decodeInt2 op d a b l w
  else if op < 0x50 then decodeFloat op d a b l w
  else if op < 0x70 then decodeSeq op d a b l w
  else if op < 0x90 then decodeMem op d a b l w
  else if op < 0xA0 then decodeAtomic op d a b l w
  else if op < 0xB0 then decodeSync op d a b l w
  else if op < 0xC0 then decodeEngine op d a b l w
  else decodeNet op d a b l w

/-- Why bytes hold no instruction. -/
inductive DecodeError where
  /-- fewer than four bytes -/
  | truncated
  /-- the literal word of a two-word instruction is not there (R9) -/
  | truncatedLiteral
deriving DecidableEq, Repr

/-- A little-endian word of four bytes. -/
def wordOfBytes (b0 b1 b2 b3 : Byte) : Word := b3 ++ b2 ++ b1 ++ b0

/-- The instruction at the head of a byte sequence, and the bytes after it. -/
def decode : List Byte → Except DecodeError (Instr × List Byte)
  | b0 :: b1 :: b2 :: b3 :: rest =>
    let w := wordOfBytes b0 b1 b2 b3
    if isTwoWord (opcodeOf w) then
      match rest with
      | c0 :: c1 :: c2 :: c3 :: rest' => .ok (decodeWord w (wordOfBytes c0 c1 c2 c3), rest')
      | _ => .error .truncatedLiteral
    else .ok (decodeWord w 0, rest)
  | _ => .error .truncated

/-- The four bytes of a word, lowest address first (R3). -/
def bytesOfWord (w : Word) : List Byte :=
  [w.extractLsb' 0 8, w.extractLsb' 8 8, w.extractLsb' 16 8, w.extractLsb' 24 8]

/-- A word of Table 2.1. -/
def mkWord (op d a b : Byte) : Word := op ++ d ++ a ++ b

/-- The encoder: the words of an instruction (Table 3.1, R8, R9); none for an event, which has no encoding. -/
def encode : Instr → Option (List Word)
  | .nop d a b => some [mkWord 0x00 d a b]
  | .bra d a b l => some [mkWord 0x01 d a b, l]
  | .brs d a b l => some [mkWord 0x02 d a b, l]
  | .brd d a b l => some [mkWord 0x03 d a b, l]
  | .join d a b => some [mkWord 0x04 d a b]
  | .brk d a b l => some [mkWord 0x05 d a b, l]
  | .jt d a b => some [mkWord 0x06 d a b]
  | .call d a b l => some [mkWord 0x07 d a b, l]
  | .calli d a b => some [mkWord 0x08 d a b]
  | .ret d a b => some [mkWord 0x09 d a b]
  | .exit d a b => some [mkWord 0x0A d a b]
  | .demote d a b => some [mkWord 0x0B d a b]
  | .apt d a b => some [mkWord 0x0C d a b]
  | .rgrow d a b => some [mkWord 0x0D d a b]
  | .rshrk d a b => some [mkWord 0x0E d a b]
  | .idem d a b => some [mkWord 0x0F d a b]
  | .mode d a b => some [mkWord 0x10 d a b]
  | .modx d a b => some [mkWord 0x11 d a b]
  | .grd d a b => some [mkWord 0x12 d a b]
  | .trap d a b => some [mkWord 0x13 d a b]
  | .rett d a b => some [mkWord 0x14 d a b]
  | .gets d a b => some [mkWord 0x15 d a b]
  | .sets d a b => some [mkWord 0x16 d a b]
  | .launch d a b => some [mkWord 0x17 d a b]
  | .tlbi d a b => some [mkWord 0x18 d a b]
  | .add d a b => some [mkWord 0x20 d a b]
  | .sub d a b => some [mkWord 0x21 d a b]
  | .mul d a b => some [mkWord 0x22 d a b]
  | .mulh d a b => some [mkWord 0x23 d a b]
  | .mad d a b => some [mkWord 0x24 d a b]
  | .min d a b => some [mkWord 0x25 d a b]
  | .max d a b => some [mkWord 0x26 d a b]
  | .and d a b => some [mkWord 0x27 d a b]
  | .or d a b => some [mkWord 0x28 d a b]
  | .xor d a b => some [mkWord 0x29 d a b]
  | .andn d a b => some [mkWord 0x2A d a b]
  | .shl d a b => some [mkWord 0x2B d a b]
  | .shr d a b => some [mkWord 0x2C d a b]
  | .sar d a b => some [mkWord 0x2D d a b]
  | .bfe d a b => some [mkWord 0x2E d a b]
  | .bfi d a b => some [mkWord 0x2F d a b]
  | .popc d a b => some [mkWord 0x30 d a b]
  | .clz d a b => some [mkWord 0x31 d a b]
  | .brev d a b => some [mkWord 0x32 d a b]
  | .sel d a b => some [mkWord 0x33 d a b]
  | .cmp d a b => some [mkWord 0x34 d a b]
  | .addi d a b => some [mkWord 0x35 d a b]
  | .shli d a b => some [mkWord 0x36 d a b]
  | .shri d a b => some [mkWord 0x37 d a b]
  | .sari d a b => some [mkWord 0x38 d a b]
  | .mov d a b => some [mkWord 0x39 d a b]
  | .movi d a b => some [mkWord 0x3A d a b]
  | .movh d a b => some [mkWord 0x3B d a b]
  | .lit d a b l => some [mkWord 0x3C d a b, l]
  | .lea d a b => some [mkWord 0x3D d a b]
  | .addx d a b => some [mkWord 0x3E d a b]
  | .fadd d a b => some [mkWord 0x40 d a b]
  | .fsub d a b => some [mkWord 0x41 d a b]
  | .fmul d a b => some [mkWord 0x42 d a b]
  | .fma d a b => some [mkWord 0x43 d a b]
  | .fnma d a b => some [mkWord 0x44 d a b]
  | .fmin d a b => some [mkWord 0x45 d a b]
  | .fmax d a b => some [mkWord 0x46 d a b]
  | .fcmp d a b => some [mkWord 0x47 d a b]
  | .rsq d a b => some [mkWord 0x48 d a b]
  | .rcp d a b => some [mkWord 0x49 d a b]
  | .ex2 d a b => some [mkWord 0x4A d a b]
  | .lg2 d a b => some [mkWord 0x4B d a b]
  | .frnd d a b => some [mkWord 0x4C d a b]
  | .fcls d a b => some [mkWord 0x4D d a b]
  | .cvt d a b => some [mkWord 0x4E d a b]
  | .cvtn d a b => some [mkWord 0x4F d a b]
  | .cvtw d a b => some [mkWord 0x50 d a b]
  | .twos d a b => some [mkWord 0x51 d a b]
  | .sadd d a b => some [mkWord 0x58 d a b]
  | .ssub d a b => some [mkWord 0x59 d a b]
  | .smul d a b => some [mkWord 0x5A d a b]
  | .sand d a b => some [mkWord 0x5B d a b]
  | .sor d a b => some [mkWord 0x5C d a b]
  | .sxor d a b => some [mkWord 0x5D d a b]
  | .sshl d a b => some [mkWord 0x5E d a b]
  | .sshr d a b => some [mkWord 0x5F d a b]
  | .scmp d a b => some [mkWord 0x60 d a b]
  | .smov d a b => some [mkWord 0x61 d a b]
  | .smovi d a b => some [mkWord 0x62 d a b]
  | .slit d a b l => some [mkWord 0x63 d a b, l]
  | .saddx d a b => some [mkWord 0x64 d a b]
  | .sld d a b => some [mkWord 0x65 d a b]
  | .sst d a b => some [mkWord 0x66 d a b]
  | .bcast d a b => some [mkWord 0x67 d a b]
  | .rdln d a b => some [mkWord 0x68 d a b]
  | .qswz d a b => some [mkWord 0x70 d a b]
  | .shfl d a b => some [mkWord 0x71 d a b]
  | .shfx d a b => some [mkWord 0x72 d a b]
  | .shup d a b => some [mkWord 0x73 d a b]
  | .vote d a b => some [mkWord 0x74 d a b]
  | .vtst d a b => some [mkWord 0x75 d a b]
  | .ld d a b => some [mkWord 0x80 d a b]
  | .ldx d a b => some [mkWord 0x81 d a b]
  | .st d a b => some [mkWord 0x82 d a b]
  | .stx d a b => some [mkWord 0x83 d a b]
  | .ldp d a b => some [mkWord 0x84 d a b]
  | .stp d a b => some [mkWord 0x85 d a b]
  | .ldv d a b => some [mkWord 0x86 d a b]
  | .pref d a b => some [mkWord 0x87 d a b]
  | .fence d a b => some [mkWord 0x88 d a b]
  | .aadd d a b => some [mkWord 0x90 d a b]
  | .amin d a b => some [mkWord 0x91 d a b]
  | .amax d a b => some [mkWord 0x92 d a b]
  | .aand d a b => some [mkWord 0x93 d a b]
  | .aor d a b => some [mkWord 0x94 d a b]
  | .axor d a b => some [mkWord 0x95 d a b]
  | .axch d a b => some [mkWord 0x96 d a b]
  | .acas d a b => some [mkWord 0x97 d a b]
  | .afadd d a b => some [mkWord 0x98 d a b]
  | .redc d a b => some [mkWord 0x99 d a b]
  | .cprd d a b => some [mkWord 0x9A d a b]
  | .redx d a b => some [mkWord 0x9B d a b]
  | .bar d a b => some [mkWord 0xA0 d a b]
  | .gbar d a b => some [mkWord 0xA1 d a b]
  | .waita d a b => some [mkWord 0xA2 d a b]
  | .qdef d a b => some [mkWord 0xA3 d a b]
  | .push d a b => some [mkWord 0xA4 d a b]
  | .pop d a b => some [mkWord 0xA5 d a b]
  | .pushn d a b => some [mkWord 0xA6 d a b]
  | .popn d a b => some [mkWord 0xA7 d a b]
  | .gres d a b => some [mkWord 0xA8 d a b]
  | .copy d a b => some [mkWord 0xB0 d a b]
  | .chase d a b => some [mkWord 0xB1 d a b]
  | .chdef d a b => some [mkWord 0xB2 d a b]
  | .macq d a b => some [mkWord 0xB3 d a b]
  | .mrel d a b => some [mkWord 0xB4 d a b]
  | .mshp d a b => some [mkWord 0xB5 d a b]
  | .mma d a b => some [mkWord 0xB6 d a b]
  | .mzero d a b => some [mkWord 0xB7 d a b]
  | .mrd d a b => some [mkWord 0xB8 d a b]
  | .mwr d a b => some [mkWord 0xB9 d a b]
  | .amsg d a b => some [mkWord 0xC0 d a b]
  | .slk d a b => some [mkWord 0xC1 d a b]
  | .circ d a b => some [mkWord 0xC2 d a b]
  | .crel d a b => some [mkWord 0xC3 d a b]
  | .snap d a b => some [mkWord 0xC4 d a b]
  | .genq d a b => some [mkWord 0xC5 d a b]
  | .grel d a b => some [mkWord 0xC6 d a b]
  | .unassignedOpcode w => some [w]
  | .fetchLine _ _ => none
  | .jetGrant _ _ => none
  | .resultReturn _ _ => none
  | .storeQueueDeparture _ => none
  | .sliceApply _ => none
  | .acknowledgement _ => none
  | .arbitration _ _ => none
  | .transitWindow => none
  | .circuitIdleEnd _ _ => none
  | .pageWalk _ _ => none
  | .clusterMove _ _ => none
  | .registerGrowth _ _ => none
  | .rgrowFailure _ _ => none
  | .waitaRead _ _ => none
  | .copyCommandStart _ _ => none
  | .copySector _ _ _ => none
  | .chaseHop _ _ => none
  | .matrixAllocator _ _ => none
  | .mmaStep _ _ => none
  | .messagePost _ _ _ => none
  | .messageWindowRead _ _ => none
  | .launchHandlerSpawn _ => none
  | .messageArrival _ _ => none
  | .messageHandlerSpawn _ => none
  | .dependencyRead _ _ _ => none
  | .gangPlacement _ => none
  | .passedOverLimit _ _ => none
  | .workgroupRetirement _ => none
  | .peerLoss _ _ => none
  | .replicaForward _ _ _ _ => none
  | .replicaLoss _ _ => none
  | .preEmption _ _ => none
  | .granuleClaim _ _ => none
  | .contextResume _ _ => none
  | .restart _ => none
  | .scanDrain => none
  | .scan _ => none
  | .scanCompletion _ _ => none
  | .cut _ => none
  | .backgroundCopier _ _ _ => none
  | .sluice _ => none
  | .bandwidthInterval => none
  | .memoryThermalStep _ _ => none
  | .powerCapStep _ => none
  | .droopDetection _ _ => none
  | .droopPrediction _ _ => none
  | .confidenceDecay => none
  | .coreThermal _ _ => none
  | .railLimit _ _ => none
  | .railTrip _ _ => none
  | .hbmTrip _ _ => none
  | .overheat _ _ => none
  | .partitionReset _ => none
  | .partitionReload _ _ => none
  | .invalcfgClear _ _ => none
  | .errstatClear _ _ => none
  | .errdropRead _ => none
  | .energyloRead _ _ => none
  | .energyhiRead _ _ => none
  | .railWrite _ _ => none
  | .railSettled _ => none
  | .lnkctlWrite _ _ => none
  | .registerWrite _ _ _ => none
  | .linkPark _ => none
  | .linkWake _ => none
  | .wakeComplete _ => none
  | .ringLockStep => none
  | .ringSaturation _ _ => none
  | .claim _ => none
  | .release _ => none
  | .handover _ _ => none
  | .gauge _ _ => none
  | .logread _ _ => none
  | .quote _ _ => none
  | .imgwrite _ _ _ => none
  | .activate _ => none
  | .powercap _ _ => none
  | .clamp _ _ _ => none
  | .railbound _ _ _ _ => none
  | .ownershipLapse => none
  | .handoverExpiry => none
  | .observatoryBoot => none
  | .trialExpiry => none
  | .moduleReset => none
  | .heartbeat => none
  | .imageConfirm => none
  | .cancellation _ _ => none
  | .coreThermalRelease _ _ => none
  | .railLimitRelease _ _ => none
  | .railTripRelease _ _ => none
  | .hbmTripRelease _ _ => none

/-- The bytes of an instruction as memory holds them. -/
def encodeBytes (i : Instr) : Option (List Byte) := (encode i).map (·.flatMap bytesOfWord)

/-- The instruction read from a word of spec/opcode_table.json: bit 0 is the least significant bit of the first word,
the literal word is bits 63 to 32, and every bit at and above nbits is zero. -/
def decodeTableWord (nbits w : Nat) : Option Instr :=
  let v := w % 2 ^ nbits
  let bytes := bytesOfWord (BitVec.ofNat 32 v) ++ bytesOfWord (BitVec.ofNat 32 (v / 2 ^ 32))
  match decode bytes with
  | .ok (i, _) => some i
  | .error _ => none

end Sys2Proof
end

