-- ==== Sys2Proof/Machine/Memory.lean ====
section
/-!
DEFINITION. Poison, the views that lanes have of memory (R154 to R157), generations (R305 to R313), frame
ownership (R298), the page walk (R237 to R240) and the translation caches (R241).
-/

namespace Sys2Proof.Machine

/-! ## Poison (R331) -/

/-- Whether a location lies in a poisoned word or sector. -/
def locPoisoned (s : State) (l : Loc) : Bool :=
  match l.space with
  | .hbm => s.poison.contains (l.addr / 32)
  | .cap => s.poisonCap.contains (l.addr / 32)
  | .pool k => (gangAt s k).poisonPool.contains (l.addr / 4)
  | _ => false

/-- Whether any of n bytes from a location is poisoned. -/
def spanPoisoned (s : State) (l : Loc) (n : Nat) : Bool :=
  (List.range n).any fun i => locPoisoned s { l with addr := l.addr + i }

/-- A store of n bytes to a pool clears the poison of the words that it writes whole. -/
def clearPoison (s : State) (l : Loc) (n : Nat) : State :=
  match l.space with
  | .pool k =>
    if n < 4 then s else
      modGang s k fun gg =>
        { gg with poisonPool := gg.poisonPool.filter fun w => !(l.addr / 4 ≤ w && w < (l.addr + n) / 4) }
  | _ => s

/-! ## Generations (R305 to R313) -/

/-- The saved bytes of a closed generation for a kind. -/
def genOld (x : Gen) (kind : Nat) : List Host.Cell := if kind == 0 then x.hbmOld else x.capOld
def setGenOld (x : Gen) (kind : Nat) (m : List Host.Cell) : Gen :=
  if kind == 0 then { x with hbmOld := m } else { x with capOld := m }

/-- The saved poison marks of a closed generation for a kind, by sector. -/
def genBad (x : Gen) (kind : Nat) : List (Nat × Bool) := if kind == 0 then x.hbmBad else x.capBad
def setGenBad (x : Gen) (kind : Nat) (m : List (Nat × Bool)) : Gen :=
  if kind == 0 then { x with hbmBad := m } else { x with capBad := m }

/-- A listed key of a map of saved values, which lists every value it saves. -/
def savedAt {α : Type} (a : Nat) (m : List (Nat × α)) : Option α := (m.find? (·.1 == a)).map (·.2)

/-- The value of the oldest of a list of images (oldest first) at a key, with the live value last (R308). -/
def imageAt {α : Type} (live : α) (a : Nat) : List (List (Nat × α)) → α
  | [] => live
  | m :: r => (savedAt a m).getD (imageAt live a r)

/-- The image of the oldest of a list of generations at an address. -/
def imageByte (gens : List Gen) (kind a : Nat) (live : Byte) : Byte := imageAt live a (gens.map (genOld · kind))

/-- Whether the image of the oldest of a list of generations is poisoned in a sector. -/
def imageBad (gens : List Gen) (kind sec : Nat) (live : Bool) : Bool := imageAt live sec (gens.map (genBad · kind))

/-- The byte of generation g's image of a partition (R308). -/
def viewGen (s : State) (p g kind a : Nat) : Byte :=
  let live := homeByte s ⟨if kind == 0 then .hbm else .cap, a⟩
  imageByte ((partAt s p).gens.filter fun x => decide (g ≤ x.num)) kind a live

/-- Whether n bytes at an address are poisoned in the image of generation g. -/
def viewPoisoned (s : State) (p g kind a n : Nat) : Bool :=
  (List.range n).any fun i =>
    let sec := (a + i) / 32
    imageBad ((partAt s p).gens.filter fun x => decide (g ≤ x.num)) kind sec
      ((if kind == 0 then s.poison else s.poisonCap).contains sec)

/-- A change tagged t of the value at a key reaches the images of the generations from t on, and no older one (R308, R310):
the next older held generation saves the value as it was. get and set are the map of saved values. -/
def genSave {α : Type} (get : Gen → List (Nat × α)) (set : Gen → List (Nat × α) → Gen) (gens : List Gen) (t a : Nat)
    (live b : α) : List Gen :=
  let older := gens.filter fun x => decide (x.num < t)
  let younger := gens.filter fun x => decide (t ≤ x.num)
  let before := imageAt live a (younger.map get)
  let younger' := younger.map fun x => if (savedAt a (get x)).isSome then set x (cellIns a b (get x)) else x
  let older' := upd older (older.length - 1) fun x =>
    if (savedAt a (get x)).isSome then x else set x (cellIns a before (get x))
  older' ++ younger'

/-- A write tagged t of byte b at a, as the images see it. -/
def genWrite (gens : List Gen) (t kind a : Nat) (live b : Byte) : List Gen :=
  genSave (genOld · kind) (setGenOld · kind) gens t a live b

/-- A write of one byte tagged t by partition p (R308). -/
def writeByte (s : State) (p t : Nat) (l : Loc) (b : Byte) : State :=
  let kind := if l.space == .hbm then 0 else 1
  let s' := pokeByte s l b
  match l.space with
  | .hbm | .cap =>
    if (partAt s p).gens.isEmpty then s'
    else modPart s' p fun pt => { pt with gens := genWrite pt.gens t kind l.addr (homeByte s l) b }
  | _ => s'

/-- A write of bytes at their home, tagged t. -/
def homeWrite (s : State) (p t : Nat) (l : Loc) : List Byte → State
  | [] => s
  | b :: r => homeWrite (writeByte s p t l b) p t { l with addr := l.addr + 1 } r

/-- An atomic or another change by f of the value of size n at a location, tagged t: it acts on the live value, and on the
value of every closed image that it is part of (R308). -/
def homeUpdate (s : State) (p t : Nat) (l : Loc) (n : Nat) (f : Nat → Option Nat) : State :=
  let live := leNat (homeBytes s l n)
  let now := leBytes n ((f live).getD live)
  let kind := if l.space == .hbm then 0 else 1
  let inImages (x : Gen) : Bool := (l.space == .hbm || l.space == .cap) && decide (t ≤ x.num)
  let changed (x : Gen) : Gen :=
    let old := leNat ((List.range n).map fun i => viewGen s p x.num kind (l.addr + i))
    setGenOld x kind (((List.range n).zip (leBytes n ((f old).getD old))).foldl (fun m y => cellIns (l.addr + y.1) y.2 m)
      (genOld x kind))
  let late := ((partAt s p).gens.filter inImages).map fun x => (x.num, genOld (changed x) kind)
  let s := homeWrite s p t l now
  if late.isEmpty then s
  else modPart s p fun pt => { pt with gens := pt.gens.map fun x =>
    match (late.find? fun y => y.1 == x.num) with | some y => setGenOld x kind y.2 | none => x }

/-- Sets or clears the poison of a sector of HBM or the capacity tier by a write tagged t (R308, R331). -/
def setBad (s : State) (p t : Nat) (l : Loc) (bad : Bool) : State :=
  let sec := l.addr / 32
  let put (live : List Nat) : List Nat := if bad then setAdd sec live else setDel sec live
  let kept (kind : Nat) (live : List Nat) (s' : State) : State :=
    if (partAt s p).gens.isEmpty then s'
    else modPart s' p fun pt =>
      { pt with gens := genSave (genBad · kind) (setGenBad · kind) pt.gens t sec (live.contains sec) bad }
  match l.space with
  | .hbm => kept 0 s.poison { s with poison := put s.poison }
  | .cap => kept 1 s.poisonCap { s with poisonCap := put s.poisonCap }
  | _ => s

/-- What a store of n bytes tagged t, of which some words come from poisoned sources, does to the poison of its location: it
clears that of the pool words and the sectors that it writes whole, and passes its own on. -/
def storePoison (s : State) (p t : Nat) (l : Loc) (n : Nat) (bad : List Nat) : State :=
  match l.space with
  | .pool k =>
    modGang (clearPoison s l n) k fun gg => { gg with poisonPool := each bad (fun i w => setAdd (l.addr / 4 + i) w) gg.poisonPool }
  | .hbm | .cap =>
    if !bad.isEmpty then setBad s p t l true else if l.addr % 32 == 0 && n == 32 then setBad s p t l false else s
  | _ => s

/-- A held closed generation that reaches a backing taken in lo and superseded after hi. -/
def backingHeld (pt : Partition) (b : Backing) : Bool :=
  (pt.gens.any fun x => decide (b.lo ≤ x.num) && decide (x.num ≤ b.hi)) ||
  (pt.live.any fun lb => lb.kind == b.kind && lb.blk == b.blk && !lb.full && lb.gen == b.hi + 1)

/-- Frees the backings that no held generation reaches and no live read is served from (R311); a frame that has left its
list returns to ownership (R312). DESIGN CHOICE (log 74): it goes to the end of its reserve's free frames; a frame that returns to
ownership reads as it did before it was listed, since the model keeps bytes by block. -/
def freeBackings (pt : Partition) : Partition :=
  let out := (pt.backings.filter fun b => !backingHeld pt b).map fun b =>
    (if b.kind == 1 || b.moved then 1 else 0, b.frame)
  let home := out.filter pt.leftList.contains
  let free := out.filter fun x => !(pt.leftList.contains x)
  { pt with
    backings := pt.backings.filter (backingHeld pt)
    hbmFree := pt.hbmFree ++ (free.filter (·.1 == 0)).map (·.2)
    capFree := pt.capFree ++ (free.filter (·.1 == 1)).map (·.2)
    leftList := pt.leftList.filter fun x => !(home.contains x)
    returned := pt.returned ++ home }

/-- Gives up a held closed generation with a final state (R313, R319): the next older one takes over its saved bytes. -/
def endGen (pt : Partition) (g code : Nat) : Partition :=
  match pt.gens.find? (·.num == g) with
  | none => pt
  | some x =>
    let older := pt.gens.filter fun y => decide (y.num < g)
    let merge (y : Gen) (kind : Nat) : Gen := setGenBad (setGenOld y kind (under (genOld x kind) (genOld y kind))) kind
      (under (genBad x kind) (genBad y kind))
    let older' := upd older (older.length - 1) fun y => merge (merge y 0) 1
    freeBackings
      { pt with
        gens := older' ++ pt.gens.filter fun y => decide (g < y.num)
        pastGens := (g, code) :: pt.pastGens.filter fun y => decide (pt.gencur ≤ y.1 + 64) }
where
  /-- A map of saved values with those of the next younger generation where it has none. -/
  under {α : Type} (young old : List (Nat × α)) : List (Nat × α) :=
    young.foldl (fun m e => if (savedAt e.1 m).isSome then m else cellIns e.1 e.2 m) old

/-- The free reserve frames of a kind. -/
def freeFrames (pt : Partition) (kind : Nat) : List Nat := if kind == 0 then pt.hbmFree else pt.capFree

/-- Drops held closed generations, oldest first, until the reserve of a kind has a frame (R313, policy 1). -/
def dropForFrame (pt : Partition) (kind : Nat) : Nat → Partition
  | 0 => pt
  | n + 1 =>
    if !(freeFrames pt kind).isEmpty then pt
    else match pt.gens with
      | [] => pt
      | x :: _ => dropForFrame (endGen pt x.num 6) kind n

/-- A sector of a live backing has its map bit set; a full map ends the live reads of the old backing (R310, R311). -/
def fillSector (pt : Partition) (kind blk sector : Nat) : Partition :=
  freeBackings { pt with live := pt.live.map fun c =>
    if c.kind == kind && c.blk == blk then
      let f := setAdd sector c.filled
      { c with filled := f, full := c.full || decide (2048 ≤ f.length) }
    else c }

/-- The live backing that a block has of its own: the first generation that it can serve, its frame, whether its fill is
complete. A block without one is its own backing from the start (R306). -/
def liveBacking (pt : Partition) (kind blk : Nat) : Nat × Nat × Bool :=
  match pt.live.find? fun b => b.kind == kind && b.blk == blk with
  | some b => (b.gen, b.frame, b.full)
  | none => (0, blk, true)

/-- The backing that the image of a generation has of a block: the first generation that it can serve, its frame, whether its fill is
complete. -/
def backingOf (pt : Partition) (t kind blk : Nat) : Nat × Nat × Bool :=
  let lb := liveBacking pt kind blk
  if lb.1 ≤ t then lb
  else match pt.backings.find? fun b => b.kind == kind && b.blk == blk && decide (b.lo ≤ t) && decide (t ≤ b.hi) with
    | some b => (b.lo, b.frame, true)
    | none => (t, blk, true)

/-- Whether an older held generation reaches the backing that a write tagged t of a block goes to, so that the write takes a frame of
its own; or one did until the write dropped it, which still waits for a frame (R310, R313). -/
def needsFrame (pt : Partition) (t kind blk : Nat) : Bool :=
  pt.owing.contains (kind, blk) || pt.gens.any fun x => decide ((backingOf pt t kind blk).1 ≤ x.num) && decide (x.num < t)

/-- What policy 1 does for a write tagged t that needs a frame: generations are dropped until one is free; where none is left
to drop, the write waits for one as under policy 0 (R313). A block whose fill is not complete waits for that first. -/
def dropRoom (pt : Partition) (waited : Bool) (t kind blk : Nat) : Partition :=
  if (t == pt.gencur || waited) && pt.dropPolicy && needsFrame pt t kind blk && (backingOf pt t kind blk).2.2 then
    let pt := dropForFrame pt kind 4
    if (freeFrames pt kind).isEmpty && !(pt.owing.contains (kind, blk)) then { pt with owing := (kind, blk) :: pt.owing } else pt
  else pt

/-- The backing that a write tagged t of a block needs (R310): none when the write must wait at its slice. One that has waited there
waits on for its frame though its generation has closed since (R313). DESIGN CHOICE (log 74): a write that arrives with the tag of a
closed generation takes no frame, even where an older one shares that backing; their images differ from then on (R308). -/
def supersede (pt : Partition) (waited : Bool) (t kind blk sector : Nat) : Option Partition :=
  let needs := needsFrame pt t kind blk
  let pt := dropRoom pt waited t kind blk
  let base := backingOf pt t kind blk
  if !(t == pt.gencur || waited) || (pt.gens.isEmpty && pt.live.isEmpty && !needs) then some pt
  else if !needs then some (if t == pt.gencur then fillSector pt kind blk sector else pt)
  else if !base.2.2 then none
  else take pt base.1 base.2.1
where
  /-- Takes a frame of the reserve, the first of its free ones (DESIGN CHOICE, log 74); the old backing stays to the older generations. -/
  take (pt : Partition) (lo old : Nat) : Option Partition :=
    match freeFrames pt kind with
    | [] => none
    | f :: rest =>
      let pt := if kind == 0 then { pt with hbmFree := rest } else { pt with capFree := rest }
      let mine (c : LiveBlk) : Bool := c.kind == kind && c.blk == blk
      let closed (b : Backing) : Bool := b.kind == kind && b.blk == blk && decide (b.lo ≤ t) && decide (t ≤ b.hi)
      let pt :=
        if (liveBacking pt kind blk).1 ≤ t then
          { pt with
            live := { kind := kind, blk := blk, gen := t, frame := f, filled := [sector] } :: pt.live.filter fun c => !(mine c)
            backings := { kind := kind, blk := blk, lo := lo, hi := t - 1, frame := old } :: pt.backings }
        else
          -- its generation has been superseded since: the backing that it shares with the older ones parts in two
          { pt with backings := pt.backings.flatMap fun b =>
              if closed b then [{ b with lo := t, frame := f, moved := false }, { b with hi := t - 1 }] else [b] }
      some { pt with
        owing := pt.owing.filter (· != (kind, blk))
        gens := pt.gens.map fun x =>
          if x.code == 4 && kind == 0 && lo ≤ x.num && decide (genWorkAt pt x.num ≠ 0) then { x with code := 3 } else x }
  /-- The HBM backings of a generation that the sluice has still to move. -/
  genWorkAt (pt : Partition) (g : Nat) : Nat := (pt.backings.filter fun b => b.kind == 0 && !b.moved && b.lo ≤ g && g ≤ b.hi).length

/-- Whether a location is homed at a slice, and so covered by generations (R305). -/
def hasSlice (l : Loc) : Bool := l.space == .hbm || l.space == .cap

/-- Whether generation g of a partition is sealed: no write of a covered block with a tag up to g is still on its way
(R309). -/
def isSealed (s : State) (p g : Nat) : Bool :=
  !(s.flight.any fun w => w.part == p && hasSlice w.loc && !w.applied && decide (w.gen ≤ g))

/-! ## Views -/

/-- Whether a write is a group's own, not a sector that an engine writes for it. -/
def ofGroup (g : Nat) (w : Write) : Bool := w.group == g && w.piece.isNone

/-- Whether a write is a device unit's, which waits at its slice for a frame (R313): it names itself as its piece. -/
def ofUnit (w : Write) : Bool := w.piece == some w.id

/-- The newest byte that a list of writes, newest first, stores at a location. -/
def forwarded (l : Loc) : List Write → Option Byte
  | [] => none
  | w :: r =>
    match w.op with
    | .store bs =>
      if w.loc.space == l.space && decide (w.loc.addr ≤ l.addr) && decide (l.addr < w.loc.addr + bs.length) then
        some (nth 0 bs (l.addr - w.loc.addr))
      else forwarded l r
    | _ => forwarded l r

/-- The stores that have left a queue of a cluster and are not performed yet, newest first: the lanes of the cluster see
them (R155). What an engine sends is seen when it is performed; what a device unit has written for its partition is seen at
once (log 48). -/
def departed (s : State) (p c : Nat) : List Write :=
  s.flight.reverse.filter fun w => !w.applied && w.part == p && ((w.core / 8 == c && w.piece.isNone) || ofUnit w)

/-- The byte that a lane of group g sees at a location (R155, R157) by an access of serial number upTo: its own earlier
queued stores, then the stores that have left a queue of its cluster, then the home. -/
def laneByte (s : State) (g lane upTo : Nat) (l : Loc) : Byte :=
  let gr := groupAt s g
  match forwarded l (gr.storeQ.reverse.filter fun w => w.lane == lane && decide (w.id < upTo)) with
  | some b => b
  | none =>
    match forwarded l (departed s gr.part (gr.core / 8)) with
    | some b => b
    | none => homeByte s l

/-- n bytes as a lane sees them. -/
def laneBytes (s : State) (g lane upTo : Nat) (l : Loc) (n : Nat) : List Byte :=
  (List.range n).map fun i => laneByte s g lane upTo { l with addr := l.addr + i }

/-- n bytes as a cluster sees them (R155): the stores that have left its queues, then the home. -/
def clusterBytes (s : State) (p c : Nat) (l : Loc) (n : Nat) : List Byte :=
  (List.range n).map fun i =>
    let x : Loc := { l with addr := l.addr + i }
    (forwarded x (departed s p c)).getD (homeByte s x)

/-- Whether a store writes the whole pool word or sector in which a location lies, whose poison it so clears (R331). -/
def clearsAt (l : Loc) (w : Write) : Bool :=
  let n := match l.space with | .pool _ => 4 | _ => 32
  let a := l.addr / n * n
  match w.op with
  | .store bs => w.loc.space == l.space && decide (w.loc.addr ≤ a) && decide (a + n ≤ w.loc.addr + bs.length)
  | _ => false

/-- Whether a byte that some stores, newest first, may still have to give is poisoned (R331): by the store that gives it, or at its
home, where none of them clears that. -/
def seenPoisoned (s : State) (ws : List Write) (l : Loc) : Bool :=
  let given := ws.find? fun w => (forwarded l [w]).isSome
  (match given with | some w => w.bad.contains ((l.addr - w.loc.addr) / 4) | none => false)
    || (locPoisoned s l && !(ws.any (clearsAt l)))

/-- Whether any of n bytes is poisoned as a lane sees them. -/
def lanePoisoned (s : State) (g lane upTo : Nat) (l : Loc) (n : Nat) : Bool :=
  let gr := groupAt s g
  let ws := (gr.storeQ.reverse.filter fun w => w.lane == lane && decide (w.id < upTo)) ++ departed s gr.part (gr.core / 8)
  (List.range n).any fun i => seenPoisoned s ws { l with addr := l.addr + i }

/-! ## Ownership and translation -/

/-- Frames of a kind (R141). -/
def kindFrames (k : Nat) : Nat :=
  if k == 0 then 18874368 else if k == 1 then 33554432 else 2 ^ 36

/-- Whether the partition's bitmap owns a frame (R294, R298); host and peer frames have no bitmap. -/
def owns (s : State) (p kind frame : Nat) : Bool :=
  let base := if kind == 0 then (cfgOf s p).hbmq else (cfgOf s p).capq
  2 ≤ kind || (((cellGet 0 (base + frame / 8) s.hbm).getLsbD (frame % 8) || (partAt s p).returned.contains (kind, frame))
    && !((partAt s p).taken.contains (kind, frame)))

/-- Fields of a page-table entry (Table 15.1). -/
def pteV (e : Nat) : Bool := e % 2 == 1
def pteW (e : Nat) : Bool := e / 2 % 2 == 1
def pteUser (e : Nat) : Bool := e / 4 % 2 == 1
def pteLarge (e : Nat) : Bool := e / 8 % 2 == 1
def pteKind (e : Nat) : Nat := e / 16 % 4
def pteRepl (e : Nat) : Bool := e / 64 % 2 == 1
def pteNx (e : Nat) : Bool := e / 128 % 2 == 1
def pteFt (e : Nat) : Bool := e / 256 % 2 == 1
def pteFrame (e : Nat) : Nat := e / 2 ^ 16 % 2 ^ 36
def pteRsvd (e : Nat) : Nat := e / 2 ^ 52 % 16
def ptePeer (e : Nat) : Nat := e / 2 ^ 56 % 256

/-- How an entry is read: in a lane's own view (R240), in a cluster's, or in that of a device unit. -/
inductive Viewer where
  | lane (g l upTo : Nat)        -- by an access of serial number upTo
  | cluster (c : Nat)            -- an engine of a logical cluster
  | unit
deriving DecidableEq, Repr

/-- n bytes from a location as a device unit sees them: what its units have still to write, then the home. -/
def unitBytes (s : State) (p : Nat) (l : Loc) (n : Nat) : List Byte :=
  let mine := s.flight.reverse.filter fun w => ofUnit w && w.part == p && !w.applied
  (List.range n).map fun i =>
    let x : Loc := { l with addr := l.addr + i }
    (forwarded x mine).getD (homeByte s x)

/-- Bytes as a viewer of a partition sees them. -/
def viewBytes (s : State) (v : Viewer) (p : Nat) (l : Loc) (n : Nat) : List Byte :=
  match v with
  | .lane g ln upTo => laneBytes s g ln upTo l n
  | .cluster c => clusterBytes s p c l n
  | .unit => unitBytes s p l n

/-- The leaf that a level-2 or level-3 entry gives, with the checks of R239 that do not depend on the access. -/
def leafOf (e : Nat) (large : Bool) : Walk :=
  let kind := pteKind e
  let f := pteFrame e
  if !pteV e then .bad (!large && pteFt e)
  else if pteRsvd e != 0 || (kind != 3 && ptePeer e != 0) || (pteRepl e && kind != 3)
      || (large && f % 4096 != 0) || kindFrames kind ≤ f then .bad false
  else .leaf
    { frame := f, large := large, kind := kind, peer := ptePeer e, repl := pteRepl e, user := pteUser e,
      write := pteW e, nx := pteNx e }

/-- The walk of R239 up to the leaf, before a peer is looked up. It reads only table frames that the partition owns
(R298); the frame of the leaf is checked where it is accessed. -/
def walkTable (s : State) (v : Viewer) (p : Nat) (va : DWord) : Walk :=
  let entry (frame i : Nat) : Nat := leNat (viewBytes s v p ⟨.hbm, frame * 65536 + 8 * i⟩ 8)
  let a := va.toNat
  let root := (cfgOf s p).root
  if 2 ^ 52 ≤ a then .bad false
  else if !owns s p 0 root then .foreign root
  else
    let e1 := entry root (a / 2 ^ 40)
    if !pteV e1 || pteLarge e1 || pteKind e1 != 0 then .bad false
    else if !owns s p 0 (pteFrame e1) then .foreign (pteFrame e1)
    else
      let e2 := entry (pteFrame e1) (a / 2 ^ 28 % 4096)
      if pteV e2 && pteLarge e2 then leafOf e2 true
      else if !pteV e2 || pteKind e2 != 0 then .bad false
      else if !owns s p 0 (pteFrame e2) then .foreign (pteFrame e2)
      else
        let e3 := entry (pteFrame e2) (a / 2 ^ 16 % 4096)
        if pteLarge e3 then .bad false else leafOf e3 false

/-- The table entries that a walk of an address reads, in order (R239, R240). -/
def walkEntries (s : State) (v : Viewer) (p : Nat) (va : DWord) : List Loc :=
  let at_ (frame i : Nat) : Loc := ⟨.hbm, frame * 65536 + 8 * i⟩
  let read (l : Loc) : Nat := leNat (viewBytes s v p l 8)
  let a := va.toNat
  let root := (cfgOf s p).root
  if 2 ^ 52 ≤ a || !owns s p 0 root then []
  else
    let l1 := at_ root (a / 2 ^ 40)
    let e1 := read l1
    if !pteV e1 || pteLarge e1 || pteKind e1 != 0 || !owns s p 0 (pteFrame e1) then [l1]
    else
      let l2 := at_ (pteFrame e1) (a / 2 ^ 28 % 4096)
      let e2 := read l2
      if !pteV e2 || pteLarge e2 || pteKind e2 != 0 || !owns s p 0 (pteFrame e2) then [l1, l2]
      else [l1, l2, at_ (pteFrame e2) (a / 2 ^ 16 % 4096)]

/-- The physical location of an address under a leaf (R239, R282): a replicated page names its replica set. -/
def leafLoc (p : Nat) (l : Leaf) (va : DWord) : Loc :=
  let a := if l.large then l.frame / 4096 * 2 ^ 28 + va.toNat % 2 ^ 28 else l.frame * 2 ^ 16 + va.toNat % 2 ^ 16
  match l.kind with
  | 0 => ⟨.hbm, a⟩
  | 1 => ⟨.cap, a⟩
  | 2 => ⟨.host, a⟩
  | _ => if l.repl then ⟨.replica (p * 256 + l.peer), a⟩ else ⟨.peer (p * 256 + l.peer), a⟩

/-- Whether the frame of a location is the partition's (R298). -/
def ownsLoc (s : State) (p : Nat) (l : Loc) : Bool :=
  match l.space with
  | .hbm => owns s p 0 (l.addr / 65536)
  | .cap => owns s p 1 (l.addr / 65536)
  | _ => true

/-- The peer table's entry (R244): incarnation and whether it is reachable; none where no page maps it. -/
def peerEntry (s : State) (p n : Nat) : Option (Nat × Bool) :=
  let va := (cfgOf s p).peers + BitVec.ofNat 64 (16 * n)
  match walkTable s .unit p va with
  | .leaf l =>
    let loc := leafLoc p l va
    let e := unitBytes s p loc 16
    if !(ownsLoc s p loc) then none else some (leNat ((e.drop 8).take 2), (nth 0 e 10).getLsbD 0)
  | _ => none

/-- The replica table's entry of set j, as a number (R282); none where no page maps it. -/
def setEntry (s : State) (p j : Nat) : Option Nat :=
  let va := (cfgOf s p).repl + BitVec.ofNat 64 (16 * j)
  match walkTable s .unit p va with
  | .leaf l =>
    let loc := leafLoc p l va
    if ownsLoc s p loc then some (leNat (unitBytes s p loc 16)) else none
  | _ => none

/-- What this device is in replica set j, as the partition's replica table says (R282): 0 the primary, 1 the holder of a
replica, 2 neither; 2 too where no page maps the table. The layout of its entries is not given (log 66). -/
def setRole (s : State) (p j : Nat) : Nat := ((setEntry s p j).map fun e => Config.replicaRole e % 3).getD 2

/-- The peer that is the primary of replica set j, where another device is and the table tells it (R282, log 66). -/
def setPrimary (s : State) (p j : Nat) : Option Nat :=
  (setEntry s p j).bind fun e => if Config.replicaRole e % 3 == 0 then none else some (Config.replicaPrimary e % 256)

/-- The walk of R239. A leaf that names a peer which is not marked reachable, or a replica set whose primary is one, gives code 13
(R245); another carries the peer's incarnation (R244). -/
def walk (s : State) (v : Viewer) (p : Nat) (va : DWord) : Walk :=
  match walkTable s v p va with
  | .leaf l =>
    let peer := if l.kind != 3 then none else if l.repl then setPrimary s p l.peer else some l.peer
    match peer with
    | none => .leaf l
    | some d =>
      match peerEntry s p d with
      | some (inc, true) => .leaf { l with inc := inc }
      | _ => .lostPeer
  | w => w

/-- Whether a cached translation maps a page (VA[51:16]). -/
def tlbMaps (t : TlbEntry) (page : Nat) : Bool :=
  if t.leaf.large then t.page / 4096 == page / 4096 else t.page == page

/-- A cached translation of a core (R241). -/
def tlbFind (s : State) (p core page : Nat) : Option Leaf :=
  (s.tlb.find? fun t => t.part == p && t.core == core && tlbMaps t page).map (·.leaf)

/-- The newest n − 1 entries that a list holds for a core or cluster, and every entry of the others. -/
def keepNewest (core : Nat) : Nat → List TlbEntry → List TlbEntry
  | _, [] => []
  | n, t :: r =>
    if t.core != core then t :: keepNewest core n r
    else match n with
      | 0 => keepNewest core 0 r
      | k + 1 => t :: keepNewest core k r

/-- A list of cached translations with a new entry: n are held for each core or cluster. -/
def cacheFill (n : Nat) (t : TlbEntry) (l : List TlbEntry) : List TlbEntry :=
  t :: keepNewest t.core (n - 1) (l.filter fun x => !(x.part == t.part && x.core == t.core && tlbMaps x t.page))

/-- Enters a leaf into a core's translation cache, which holds 256 (R241). -/
def tlbFill (s : State) (p core page : Nat) (l : Leaf) : State := { s with tlb := cacheFill 256 ⟨core, p, page, l⟩ s.tlb }

/-- A cached translation of a logical core's cluster. -/
def ctlbFind (s : State) (p core page : Nat) : Option Leaf :=
  (s.ctlb.find? fun t => t.part == p && t.core == core / 8 && tlbMaps t page).map (·.leaf)

/-- Enters a leaf into the translation cache of a logical core's cluster, which holds 4,096 for the partition that the
cluster serves (R241). -/
def ctlbFill (s : State) (p core page : Nat) (l : Leaf) : State := { s with ctlb := cacheFill 4096 ⟨core / 8, p, page, l⟩ s.ctlb }

/-- The incarnation that a request to a location is sent with (R244): that of the translation. -/
def peerIncOf (s : State) (p core : Nat) (l : Loc) (va : DWord) : Nat :=
  match l.space with
  | .peer k =>
    match tlbFind s p core (va.toNat / 65536) with
    | some lf => lf.inc
    | none =>
      let peer := if 4096 ≤ k then setPrimary s p (k - 4096 - p * 256) else some (k - p * 256)
      ((peer.bind (peerEntry s p)).map (·.1)).getD 0
  | _ => 0

/-- The access checks of R239 on a leaf: the fault code, 0 for none. -/
def leafCheck (l : Leaf) (user : Bool) (k : Access) : Nat :=
  if user && !l.user then 1
  else if k == .fetch && l.nx then 1
  else if (k == .write || k == .atomic) && !l.write then 2
  else 0

/-- The primary of replica set j (R167, R282): its memory is kept beside those of the peers. -/
def primaryOf (p j : Nat) : Nat := 4096 + p * 256 + j

/-- The memory that a replicated page's access goes to (R167, R282): a relaxed load goes to a replica, to this device's or to
the nearest, unless this device is the primary or the replica is lost. -/
def replicaLoc (s : State) (p : Nat) (k : Access) (acq : Bool) (l : Loc) : Loc :=
  match l.space with
  | .replica n =>
    let set := n - p * 256
    if k == .read && !acq && !((partAt s p).replicasLost.contains set) && setRole s p set != 0 then l
    else { l with space := .peer (primaryOf p set) }
  | _ => l

/-- A virtual address as a device unit reaches it, whatever USER, W and NX hold; otherwise the foreign frame met (R298). -/
def unitLoc (s : State) (p : Nat) (va : DWord) : Except (Option Nat) Loc :=
  match walk s .unit p va with
  | .leaf l =>
    let loc := leafLoc p l va
    if ownsLoc s p loc then .ok loc else .error (some (loc.addr / 65536))
  | .foreign f => .error (some f)
  | _ => .error none

/-- The location that a unit reads at a virtual address; none where no leaf of an owned frame maps it. A replicated page is
read at its primary, as an acquire. -/
def unitSource (s : State) (p : Nat) (va : DWord) : Option Loc :=
  match unitLoc s p va with
  | .ok loc => some (replicaLoc s p .read true loc)
  | .error _ => none

/-- An access of a device unit to a foreign frame is not performed, and is entered in the ring as one of no grid (R298). -/
def unitForeign (p addr frame : Nat) (s : State) : State :=
  ringEntry s p 6 addr 0 0xFFFFFFFF (0x100 + homeSlice frame) (frame % 2 ^ 32)

/-- What a device unit's access at a virtual address enters in the ring, where it meets a foreign frame (R298). -/
def noteForeign (p : Nat) (va : DWord) (s : State) : State :=
  match unitLoc s p va with
  | .error (some f) => unitForeign p va.toNat f s
  | _ => s

/-- The same of an access to n bytes, which may reach into the next page. -/
def noteSpan (p : Nat) (va : DWord) (n : Nat) (s : State) : State :=
  let s := noteForeign p va s
  if va.toNat / 65536 < (va.toNat + n - 1) / 65536 then noteForeign p (BitVec.ofNat 64 ((va.toNat + n - 1) / 65536 * 65536)) s else s

/-- A leaf of kind 3 has its peer or replica set looked up in the partition's tables, which may lie in a foreign frame. -/
def noteTables (p : Nat) (l : Leaf) (s : State) : State :=
  if l.kind != 3 then s
  else
    let s := noteForeign p ((if l.repl then (cfgOf s p).repl else (cfgOf s p).peers) + BitVec.ofNat 64 (16 * l.peer)) s
    match (if l.repl then setPrimary s p l.peer else none) with
    | some d => noteForeign p ((cfgOf s p).peers + BitVec.ofNat 64 (16 * d)) s
    | none => s

/-- A relaxed load of a replicated page has the replica table read, which may lie in a foreign frame. -/
def noteRole (p : Nat) (loc : Loc) (s : State) : State :=
  match loc.space with
  | .replica n => noteForeign p ((cfgOf s p).repl + BitVec.ofNat 64 (16 * (n - p * 256))) s
  | _ => s

/-- A walk's result, with what the look-up of its leaf's peer or replica set enters in the ring. -/
def noteWalk (v : Viewer) (p : Nat) (va : DWord) (s : State) : State :=
  match walkTable s v p va with | .leaf l => noteTables p l s | _ => s

/-- The translation of a page that a core or its cluster holds (R241). -/
def cached (s : State) (p core page : Nat) : Option Leaf := (tlbFind s p core page).or (ctlbFind s p core page)

/-- A global address as an engine reaches it for a viewer: a location, or a fault code with the foreign frame met. -/
def engineLoc (s : State) (v : Viewer) (p core : Nat) (user : Bool) (va : Nat) (k : Access) : Except (Nat × Option Nat) Loc :=
  let a := BitVec.ofNat 64 va
  if 2 ^ 52 ≤ va then .error (1, none)
  else match ((cached s p core (va / 65536)).map Walk.leaf).getD (walk s v p a) with
    | .leaf l =>
      let loc := leafLoc p l a
      let c := leafCheck l user k
      if c != 0 then .error (c, none)
      else if !(ownsLoc s p loc) then .error (1, some (loc.addr / 65536))
      else .ok (replicaLoc s p k false loc)
    | .foreign f => .error (1, some f)
    | .lostPeer => .error (13, none)
    | .bad _ => .error (1, none)

/-- Reads bytes at a virtual address for a device unit. The bytes lie in one page. -/
def unitRead (s : State) (p : Nat) (va : DWord) (n : Nat) : Option (List Byte) :=
  (unitSource s p va).map fun loc => unitBytes s p loc n

/-- A store to n bytes at a location: the dependencies of launch-queue entries that lie there are to be read again (R224). -/
def storeSeen (s : State) (p : Nat) (l : Loc) (n : Nat) : State :=
  if (partAt s p).launchQ.isEmpty then s
  else modPart s p fun pt => { pt with launchQ := pt.launchQ.map fun x =>
    { x with due := (List.range 4).foldl (fun d k => match nth none x.locs k with
        | some d' => if d'.space == l.space && d'.addr < l.addr + n && l.addr < d'.addr + 4 then setAdd k d else d
        | none => d) x.due } }

/-- The pieces of n bytes from an offset in a sector, cut at 32-byte boundaries: first byte and one past the last. -/
def sectorPieces (o n : Nat) : List (Nat × Nat) :=
  (List.range ((o % 32 + n + 31) / 32)).map fun i => (32 * i - o % 32, min n (32 * (i + 1) - o % 32))

/-- The kind whose reserve a location's frame comes from. -/
def frameKind (l : Loc) : Nat := if l.space == .hbm then 0 else 1

/-- The location that a unit writes at a virtual address. -/
def unitTarget (s : State) (p : Nat) (va : DWord) : Option Loc :=
  match unitLoc s p va with
  | .ok loc => some (replicaLoc s p .write false loc)
  | .error _ => none

/-- Whether a device unit's write of a partition waits at its slice in the sector of a location: another of them comes after it. -/
def unitBehind (s : State) (p : Nat) (loc : Loc) : Bool :=
  s.flight.any fun w => ofUnit w && w.part == p && !w.applied && w.loc.space == loc.space && w.loc.addr / 32 == loc.addr / 32

/-- Whether a write in the sector of a location need not wait for a frame (R313). -/
def sectorReady (s : State) (p : Nat) (loc : Loc) : Bool :=
  !(loc.space == .hbm || loc.space == .cap) ||
    !(unitBehind s p loc) && (supersede (partAt s p) false (partAt s p).gencur (frameKind loc) (loc.addr / 65536) (loc.addr % 65536 / 32)).isSome

/-- Whether no sector of n bytes at a virtual address must wait for a frame (R313). -/
def unitReady (s : State) (p : Nat) (va : DWord) (n : Nat) : Bool :=
  (sectorPieces va.toNat n).all fun x =>
    match unitTarget s p (va + BitVec.ofNat 64 x.1) with
    | none => true
    | some loc => sectorReady s p loc

/-- A device's write tagged t that must wait at its slice for a frame: policy 1 has dropped what it could (R313). -/
def stalled (p t : Nat) (loc : Loc) (s : State) : State :=
  if loc.space == .hbm || loc.space == .cap then modPart s p fun pt => dropRoom pt false t (frameKind loc) (loc.addr / 65536) else s

/-- A device unit's write that waits at its slice for a frame (R313), as system traffic of the fixed slack (R269). -/
def unitWaits (p : Nat) (loc : Loc) (bytes : List Byte) (s : State) : State :=
  let pt := partAt s p
  let (id, s) := fresh s
  { s with flight := s.flight ++ [{ id := id, iid := id, part := p, core := 1024, group := s.groups.length, wg := s.wgs.length
                                    loc := loc, size := bytes.length, op := .store bytes, stage := .slice (s.now / 8)
                                    slack := { s := 4095, t0 := s.now }
                                    gen := pt.gencur, inc := pt.inc, piece := some id, waited := true }] }

/-- Writes the bytes of one sector at a location for a device unit, tagged with the current generation; behind one that waits there
it waits too. -/
def putPiece (p : Nat) (loc : Loc) (bytes : List Byte) (s : State) : State :=
  let s := storeSeen s p loc bytes.length
  let t := (partAt s p).gencur
  match loc.space with
  | .hbm | .cap =>
    let blk := loc.addr / 65536
    match (if unitBehind s p loc then none else supersede (partAt s p) false t (frameKind loc) blk (loc.addr % 65536 / 32)) with
    | some pt => storePoison (homeWrite (modPart s p fun _ => pt) p t loc bytes) p t loc bytes.length []
    | none => unitWaits p loc bytes (stalled p t loc s)
  | .peer k =>
    let s := homeWrite s p t loc bytes
    if k < 4096 then s else
      modPart s p fun pt => { pt with replFwd := pt.replFwd ++ [(k - 4096 - p * 256, loc.addr, bytes)] }
  | _ => homeWrite s p t loc bytes

/-- Writes bytes at a physical location for a device unit, sector by sector. -/
def unitStore (p : Nat) (loc : Loc) (bytes : List Byte) (s : State) : State :=
  (sectorPieces loc.addr bytes.length).foldl (fun (s : State) (x : Nat × Nat) =>
    putPiece p { loc with addr := loc.addr + x.1 } ((bytes.drop x.1).take (x.2 - x.1)) s) s

/-- Writes the bytes of one sector at a virtual address for a device unit; an address that no leaf of an owned frame maps is
not written. -/
def unitPiece (p : Nat) (va : DWord) (bytes : List Byte) (s : State) : State :=
  match unitTarget s p va with
  | none => noteForeign p va s
  | some loc => putPiece p loc bytes s

/-- Whether a completion record's 128 bytes can be written where it lies: no frame is awaited, or the frame is the
partition's no more (R298) and nothing will be written. -/
def recordReady (s : State) (p : Nat) (home : Option Loc) : Bool :=
  match home with
  | none => true
  | some loc => !(ownsLoc s p loc) ||
      (sectorPieces loc.addr 128).all fun x => sectorReady s p { loc with addr := loc.addr + x.1 }

/-- Writes bytes at an offset of a completion record, where it lies. -/
def recordWrite (s : State) (p : Nat) (home : Option Loc) (o : Nat) (bytes : List Byte) : State :=
  match home with
  | none => s
  | some loc =>
    if ownsLoc s p loc then unitStore p { loc with addr := loc.addr + o } bytes s
    else unitForeign p (loc.addr + o) (loc.addr / 65536) s

/-! ## Ownership bits of reserve frames (R312) -/

/-- Address of the ownership byte of a frame. -/
def ownByte (c : PartCfg) (kind frame : Nat) : Nat := (if kind == 0 then c.hbmq else c.capq) + frame / 8

/-- Writes the ownership bit of a frame that has come back or been taken: a write of the device into HBM of the partition, which
waits while it needs a reserve frame that is not there (R313); the frame is owned or not in the meantime too (log 48). -/
def writeOwned (p : Nat) (own : Bool) (s : State) (x : Nat × Nat) : State :=
  let a := ownByte (cfgOf s p) x.1 x.2
  let bit := BitVec.twoPow 8 (x.2 % 8)
  let t := (partAt s p).gencur
  match supersede (partAt s p) false t 0 (a / 65536) (a % 65536 / 32) with
  | none => stalled p t ⟨.hbm, a⟩ s
  | some pt =>
    let pt := { pt with returned := pt.returned.filter (· != x), taken := pt.taken.filter (· != x) }
    let b := cellGet 0 a s.hbm
    homeWrite (modPart s p fun _ => pt) p t ⟨.hbm, a⟩ [if own then b ||| bit else b &&& ~~~bit]

/-- The ownership bits of a partition that are still to be written are, as far as frames allow. -/
def flushOwned (s : State) (p : Nat) : State :=
  let s := (partAt s p).returned.foldl (writeOwned p true) s
  (partAt s p).taken.foldl (writeOwned p false) s

/-- Gives frames back to the partition's ownership, or takes them from it. -/
def setOwned (p : Nat) (own : Bool) (l : List (Nat × Nat)) (s : State) : State :=
  flushOwned (modPart s p fun pt =>
    let others (m : List (Nat × Nat)) : List (Nat × Nat) := m.filter fun x => !(l.contains x)
    { pt with returned := if own then others pt.returned ++ l else others pt.returned
              taken := if own then others pt.taken else others pt.taken ++ l }) p

/-- Writes bytes at a virtual address for a device unit. -/
def unitWrite (s : State) (p : Nat) (va : DWord) (bytes : List Byte) : State :=
  (sectorPieces va.toNat bytes.length).foldl
    (fun (s : State) (x : Nat × Nat) =>
      unitPiece p (va + BitVec.ofNat 64 x.1) ((bytes.drop x.1).take (x.2 - x.1)) s) s

end Sys2Proof.Machine
end

