-- ==== Sys2Proof/Machine/Regions.lean ====
section
/-!
DEFINITION. The split table and the region table (R95 to R105, R373): entries, region records and their spill, arrival,
the deferred pass, merge, regang and the leaving of lanes.
-/

namespace Sys2Proof.Machine

/-! ## The fetched line (R12 to R15) -/

/-- The header of the line in the buffer, as a number. -/
def lineHeader (line : List Byte) : Nat := leNat (line.take 16)
def hdrStart (h : Nat) : Nat := h % 2 ^ 28
def hdrTarget (h : Nat) : Nat := h / 2 ^ 28 % 2 ^ 28
def hdrBound (h : Nat) : Nat := h / 2 ^ 56 % 2 ^ 28
def hdrWait (h : Nat) : Nat := h / 2 ^ 84 % 2 ^ 28
def hdrVer (h : Nat) : Nat := h / 2 ^ 112 % 8
def hdrLast (h : Nat) : Nat := h / 2 ^ 115 % 32
def hdrRsvd (h : Nat) : Nat := h / 2 ^ 120 % 2 ^ 8
def hdrBit (m i : Nat) : Bool := m / 2 ^ i % 2 == 1

/-- The address of the line of a slot address. -/
def lineOf (pc : DWord) : DWord := pc &&& ~~~(127 : DWord)
/-- Slot number of an address that lies in a slot. -/
def slotOf (pc : DWord) : Nat := (pc.toNat % 128 - 16) / 4
/-- The word in slot i of a line. -/
def slotWord (line : List Byte) (i : Nat) : Word := BitVec.ofNat 32 (leNat ((line.drop (16 + 4 * i)).take 4))

/-- next(pc): the slot after the instruction's last word, or slot 0 of the next line after slot LAST (R14, R111). -/
def nextAddr (sp : Split) (pc : DWord) (words : Nat) : DWord :=
  if hdrLast (lineHeader sp.line) ≤ slotOf pc + words - 1 && sp.lineVa == lineOf pc && !sp.line.isEmpty
  then lineOf pc + 144 else pc + BitVec.ofNat 64 (4 * words)

/-- The split has completed one instruction: it stands at the next one with its held lanes active again. -/
def stepPast (sp : Split) (words : Nat) : Split :=
  { sp with pc := nextAddr sp sp.pc words, act := sp.act ||| sp.rejoin, rejoin := 0, park := none, count := sp.count + 1 }

/-! ## Records and entries -/

/-- Region record number n of a group. -/
def regionAt (gr : Group) (n : Nat) : Region := (gr.regions.find? (·.num == n)).getD {}
def modRegion (gr : Group) (n : Nat) (f : Region → Region) : Group :=
  { gr with regions := gr.regions.map fun r => if r.num == n then f r else r }
def dropRegion (gr : Group) (n : Nat) : Group := { gr with regions := gr.regions.filter fun r => r.num != n }

/-- The return entry is reserved while a handler runs (R247). -/
def entryFree (gr : Group) (e : Nat) : Bool :=
  !(splitAt gr e).valid && (match gr.frame with | some f => f.rentry != e | none => true)

/-- The lowest free ordinary entry (R95). -/
def freeEntry (gr : Group) : Option Nat := firstFrom 8 (entryFree gr)
/-- How many ordinary entries are free. -/
def freeEntries (gr : Group) : Nat := ((List.range 8).filter (entryFree gr)).length

/-- INNER or PARENT as Table 6.4 encodes it. -/
def placeCode (gr : Group) : Option Nat → Nat
  | none => 0xFFFF
  | some n => match (regionAt gr n).place with
    | .table i => i
    | .spilled k => 0x8000 + k

/-- Whether an access that waits for its translations will write a sequencer register. -/
def seqWaits (w : Waiting) : Bool := match w.dest with | some (f, _, _) => f == .seq | none => false

/-- A sequencer register of a quad of the set is pending (R99): its result is outstanding or not even asked for yet. -/
def seqPending (gr : Group) (m : QuadMask) : Bool :=
  (gr.reqs.any fun r => r.file == .seq && (r.lanes &&& lanesOfQuads m) != 0)
    || gr.splits.any fun sp => sp.valid && (sp.qmask &&& m) != 0 &&
        match sp.park with | some (.walk ws) => ws.any seqWaits | _ => false

/-! ## Spill (R105) -/

/-- A record's 512 bits as Table 6.5 lays them out, as 64 little-endian bytes. -/
def regionImage (gr : Group) (r : Region) : List Byte :=
  let hi (a : DWord) : Nat := a.toNat / 4 % 2 ^ 50
  leBytes 64
    (1 + hi r.joinpc * 2 ^ 2 + r.phase * 2 ^ 52 + hi r.dtarget * 2 ^ 54 + hi (r.btarget.getD 0) * 2 ^ 106
      + r.defer.toNat * 2 ^ 160 + r.blanes.toNat * 2 ^ 224 + r.members.toNat * 2 ^ 288 + r.arrived.toNat * 2 ^ 304
      + placeCode gr r.parent * 2 ^ 320)

/-- The record that INNER or PARENT of Table 6.4 names. -/
def codePlace (gr : Group) (x : Nat) : Option Nat :=
  if x == 0xFFFF then none
  else (gr.regions.find? fun r => r.place == (if x < 0x8000 then .table x else .spilled (x - 0x8000))).map (·.num)

/-- A record with the fields of Table 6.5 as a spill slot holds them. -/
def regionFrom (gr : Group) (r : Region) (bytes : List Byte) : Region :=
  let x := leNat bytes
  let f (lo n : Nat) : Nat := x / 2 ^ lo % 2 ^ n
  { r with
    joinpc := BitVec.ofNat 64 (4 * f 2 50), phase := f 52 2, dtarget := BitVec.ofNat 64 (4 * f 54 50)
    btarget := if f 106 50 == 0 && r.btarget.isNone then none else some (BitVec.ofNat 64 (4 * f 106 50))
    defer := BitVec.ofNat 64 (f 160 64), blanes := BitVec.ofNat 64 (f 224 64), members := BitVec.ofNat 16 (f 288 16)
    arrived := BitVec.ofNat 16 (f 304 16), parent := codePlace gr (f 320 16) }

/-- Groups of a workgroup at the width of ALOW (R229). -/
def reserveGroups (recd : LaunchRec) : Nat :=
  (4 * ((recd.wgsz + 3) / 4) + widthOf recd.alow - 1) / widthOf recd.alow

/-- Bytes of the context reserve that a workgroup gets for its trap frames (R249), and for its spill areas (R229). -/
def frameRoom (recd : LaunchRec) : Nat := reserveGroups recd * 1152
def spillRoom (recd : LaunchRec) : Nat := reserveGroups recd * recd.spill

/-- VA of a group's spill area (R105, R229). -/
def spillVa (s : State) (g : Nat) : DWord :=
  let w := wgOf s g
  let recd := (gridAt s w.grid).recd
  BitVec.ofNat 64
    ((cfgOf s w.part).ctxBase + w.spillAt + (groupAt s g).num * recd.spill)

/-- VA of a group's trap frame (R249). -/
def frameVa (s : State) (g : Nat) : DWord :=
  let w := wgOf s g
  BitVec.ofNat 64 ((cfgOf s w.part).ctxBase + w.reserve + (groupAt s g).num * 1152)

def inTable (r : Region) : Bool := match r.place with | .table _ => true | .spilled _ => false
def usesSlot (k : Nat) (r : Region) : Bool := r.place == .spilled k
def usesEntry (i : Nat) (r : Region) : Bool := r.place == .table i

/-- The least recently used record of the region table. -/
def oldestRegion (l : List Region) : Option Region :=
  l.foldl (fun acc r => match acc with | none => some r | some b => if r.stamp < b.stamp then some r else acc) none

/-- Writes a spilled record to its slot. -/
def spillWrite (g : Nat) (s : State) (r : Region) : State :=
  match r.place with
  | .spilled k =>
    unitWrite s (groupAt s g).part (spillVa s g + BitVec.ofNat 64 (64 * k)) (regionImage (groupAt s g) r)
  | .table _ => s

/-- A record takes another place: what names it is rewritten, in the spill area too (R105). -/
def moveRegion (s : State) (g n : Nat) (p : RegPlace) (f : Region → Region) : State :=
  let s := modGroup s g fun gr => modRegion gr n fun r => f { r with place := p }
  ((groupAt s g).regions.filter fun r => r.num == n || r.parent == some n).foldl (spillWrite g) s

/-- Records that have changed while they lie in the spill area are rewritten there (R105): before is the group as it was. -/
def keepSpilled (before : Group) (s : State) (g : Nat) : State :=
  ((groupAt s g).regions.filter fun r => !(before.regions.contains r)).foldl (spillWrite g) s

/-- Makes a region table entry free, spilling the least recently used record where all eight are valid; none where no
spill slot is free (code 14). -/
def regionRoom (s : State) (g : Nat) : Option (State × Nat) :=
  let gr := groupAt s g
  match firstFrom 8 fun i => !(gr.regions.any (usesEntry i)) with
  | some i => some (s, i)
  | none =>
    let slots := (gridOf s g).recd.spill / 64
    match firstFrom slots fun k => !(gr.regions.any (usesSlot k)), oldestRegion (gr.regions.filter inTable) with
    | some k, some r =>
      match r.place with
      | .table i => some (moveRegion s g r.num (.spilled k) id, i)
      | .spilled _ => none
    | _, _ => none

/-- The spilled record n comes to table entry i, as its slot k holds it. -/
def reloadAt (s : State) (g n k i : Nat) : State :=
  let gr := groupAt s g
  let r := regionAt gr n
  let va := spillVa s g + BitVec.ofNat 64 (64 * k)
  let r' := match unitRead s gr.part va 64 with
    | some b => regionFrom gr r b
    | none => r
  moveRegion (noteForeign gr.part va s) g n (.table i) fun x => { r' with place := x.place, stamp := s.tick + 1 }

/-- Brings a spilled record back into the region table, as its slot holds it (R105); a record in the table counts as used
now. DESIGN CHOICE (log 62): a use is the opening of a record, its reload, and a JOIN or BRK that names it. -/
def regionLoad (s : State) (g n : Nat) : Option State :=
  match (regionAt (groupAt s g) n).place with
  | .table _ => some (modGroup s g fun gr => modRegion gr n fun r => { r with stamp := s.tick + 1 })
  | .spilled k => (regionRoom s g).map fun (s, i) => reloadAt s g n k i

/-- Brings a record into the region table for a consequence of the tables, to which no instruction could take code 14. DESIGN
CHOICE (log 62): where no slot is free, the record that makes room takes the slot of the one that is reloaded. -/
def regionTake (s : State) (g n : Nat) : State :=
  match regionLoad s g n, (regionAt (groupAt s g) n).place, oldestRegion ((groupAt s g).regions.filter inTable) with
  | some s, _, _ => s
  | none, .spilled k, some r =>
    match r.place with
    | .table i => moveRegion (reloadAt s g n k i) g r.num (.spilled k) id
    | .spilled _ => s
  | none, _, _ => s

/-- Opens a record for split e (R98, R118); none where it cannot be written. -/
def openRegion (s : State) (g e : Nat) (join dtarget bpc bnext : DWord) (isJt : Bool) : Option (State × Nat) :=
  (regionRoom s g).map fun (s, i) =>
    let gr := groupAt s g
    let sp := splitAt gr e
    let n := gr.nextRegion
    let r : Region :=
      { num := n, place := .table i, parent := sp.inner, members := sp.qmask, dtarget := dtarget, joinpc := join
        bpc := bpc, bnext := bnext, isJt := isJt, stamp := s.tick + 1, lanes := sp.act ||| sp.rejoin, pass := sp.inPass }
    (modGroup s g fun gr =>
      modSplit { gr with regions := gr.regions ++ [r], nextRegion := n + 1 } e fun sp => { sp with inner := some n }, n)

/-! ## Merge (R99, R100) -/

/-- Gives every quad of a set the sequencer registers and mode word of the lowest (R100). -/
def unify (gr : Group) (m : QuadMask) : Group :=
  match bitsOf m with
  | [] => gr
  | k0 :: ks =>
    let q0 := quadAt gr k0
    each ks (fun k gr => modQuad gr k fun q => { q with s := q0.s, mode := q0.mode, poison := q0.poison, errS := q0.errS }) gr

/-- Lanes held or deferred in some record other than n. -/
def heldElsewhere (gr : Group) (n : Nat) : LaneMask :=
  gr.regions.foldl (fun m r => if r.num == n then m else m ||| r.defer ||| r.blanes) 0

/-- The mask of the live lanes of a group. -/
def liveMask (gr : Group) : LaneMask := maskOf 64 (liveLanes gr)

/-- The entries parked at the JOIN of region n. -/
def parkedAt (gr : Group) (n : Nat) : List Nat :=
  positions (fun sp => sp.valid && sp.st == .atJoin && sp.inner == some n) gr.splits

/-- A split that takes part in no table any more. -/
def freeSplit (gr : Group) (e : Nat) : Group := modSplit gr e fun _ => {}

/-- A fully arrived region with deferred lanes runs them (R99 step 1): in one new split where an entry is free or
becomes free, otherwise in place. The handler's regions run in place, since it takes no ordinary entry (R133). -/
def startPass (gr : Group) (n : Nat) (now : Nat) : Group :=
  let r := regionAt gr n
  let qd := quadsOfLanes r.defer
  let here := parkedAt gr n
  -- the deferred lanes of a JT come to the JT itself, which no transfer checks
  let arr (ls : LaneMask) : List Arrive :=
    if r.isJt then [] else [{ lanes := ls, fpc := r.bpc, next := r.bnext, within := some n }]
  let emptied := here.filter fun e => ((splitAt gr e).qmask &&& ~~~qd) == 0 && ((splitAt gr e).qmask &&& qd) != 0
  let target := if here.contains 8 || r.phase == 1 then none else (freeEntry gr).or emptied.head?
  match target with
  | some t =>
    let gr := each here (fun e gr => modSplit gr e fun sp => { sp with qmask := sp.qmask &&& ~~~qd }) gr
    let gr := each emptied (fun e gr => freeSplit gr e) gr
    let gr := modSplit gr t fun _ =>
      { valid := true, qmask := qd, pc := r.dtarget, act := r.defer, inner := some n, arrive := arr r.defer
        inPass := some n, age := now }
    modRegion gr n fun r => { r with phase := 1, arrived := r.arrived &&& ~~~qd, defer := 0 }
  | none =>
    match here.find? fun e => ((splitAt gr e).qmask &&& qd) != 0 with
    | none => gr
    | some e =>
      let sp := splitAt gr e
      let mine := r.defer &&& lanesOfQuads sp.qmask
      let gr := modSplit gr e fun sp =>
        { sp with st := .ready, pc := r.dtarget, act := mine, arrive := arr mine, inPass := some n, age := now
                  rejoin := 0 }
      modRegion gr n fun r => { r with phase := 1, arrived := r.arrived &&& ~~~sp.qmask, defer := r.defer &&& ~~~mine }

/-- JOINPC + 4, or slot 0 of the next line after the last slot of a line (R14). -/
def afterJoin (r : Region) : DWord :=
  r.after.getD (if r.joinpc.toNat % 128 == 124 then r.joinpc + 20 else r.joinpc + 4)

/-- A fully arrived region without deferred lanes merges its splits (R99 step 2, R100, R103): they continue after the
JOIN in the lowest entry, with every live lane that was active when the region opened and is held by no other record. A
quad that a BRK has placed at the JOIN of an outer record stays there, in one entry (R96, R102); with no split parked the
record is only freed. -/
def mergeRegion (gr : Group) (n : Nat) (now : Nat) : Group :=
  let r := regionAt gr n
  let here := parkedAt gr n
  let live := liveMask gr
  let parked : QuadMask := here.foldl (fun m e => m ||| (splitAt gr e).qmask) 0
  let quads := maskOf 16 ((bitsOf (r.arrived &&& parked)).filter fun k => (live &&& quadLanes k) != 0)
  match here with
  | [] => dropRegion gr n
  | e0 :: rest =>
    let gr := unify gr quads
    let gr := each rest (fun e gr => freeSplit gr e) gr
    let act := (r.lanes ||| r.blanes) &&& live &&& lanesOfQuads quads &&& ~~~(heldElsewhere gr n)
    let gr := if quads == 0 then freeSplit gr e0 else
      modSplit gr e0 fun sp =>
        { sp with qmask := quads, st := .ready, inner := r.parent, pc := afterJoin r, act := act
                  arrive := [], rejoin := 0, park := none, inPass := r.pass, age := now }
    dropRegion gr n

/-- Split e arrives at the JOIN of its innermost region and parks there (R99, R373). -/
def arriveAt (gr : Group) (e n : Nat) : Group :=
  let q := (splitAt gr e).qmask
  let join := (regionAt gr n).joinpc
  let gr := modSplit gr e fun sp => { sp with st := .atJoin, pc := join, park := none, arrive := [], rejoin := 0 }
  modRegion gr n fun r => { r with arrived := r.arrived ||| q }

/-- Every member has arrived. -/
def fullyArrived (r : Region) : Bool := r.members != 0 && (r.members &&& ~~~r.arrived) == 0

/-- A region that can complete now: its pass needs nothing, its merge no pending sequencer register (R99). -/
def canComplete (gr : Group) (r : Region) : Bool :=
  fullyArrived r && (if r.defer != 0 then !(parkedAt gr r.num).isEmpty else !seqPending gr r.members)

/-- A region that has only to merge, and waits with its splits for a pending sequencer register: its PHASE becomes 2 (R99 step 2). -/
def waitsToMerge (r : Region) : Bool := fullyArrived r && r.defer == 0 && r.phase != 2

/-- Whether a split has still to take a fault, at its instruction or for one that it has completed, in a lane that lives. -/
def owesFault (gr : Group) (sp : Split) : Bool := (sp.marked ++ sp.owed.flatMap (·.lanes)).any fun x => laneLive gr x.1

/-- The faults that a split owes in the lanes of some quads. -/
def owedIn (m : LaneMask) (l : List Raise) : List Raise :=
  (l.map fun r => { r with lanes := r.lanes.filter fun x => m.getLsbD x.1 }).filter fun r => !r.lanes.isEmpty

/-- A valid split with no active lane and with an innermost region arrives there at once (R373). -/
def idleSplit (gr : Group) (e : Nat) : Bool :=
  let sp := splitAt gr e
  sp.valid && sp.act == 0 && !(owesFault gr sp) && sp.st != .atJoin && sp.inner.isSome && sp.qmask != 0 &&
    (!sp.handler || sp.inner != (match gr.frame with | some f => f.inner | none => none))

/-- An ordinary split that holds no quad is freed (R102); the quads that hold no live lane have left it. -/
def emptySplit (gr : Group) (e : Nat) : Bool := let sp := splitAt gr e; sp.valid && sp.qmask == 0

/-- One consequence of a change of the tables, if any is due. -/
def settleOnce (s : State) (g : Nat) : Option State :=
  let gr := groupAt s g
  match firstFrom 8 (emptySplit gr) with
  | some e => some (modGroup s g fun gr => freeSplit gr e)
  | none =>
    match firstFrom 9 (idleSplit gr) with
    | some e =>
      let n := (splitAt gr e).inner.getD 0
      some (modGroup (regionTake s g n) g fun gr => arriveAt gr e n)
    | none =>
      match gr.regions.reverse.find? fun r => r.members == 0 && r.defer == 0 && r.blanes == 0 with
      | some r => some (modGroup s g fun gr => dropRegion gr r.num)
      | none =>
        match gr.regions.reverse.find? (canComplete gr) with
        | some r => some (modGroup (regionTake s g r.num) g fun gr =>
            if (regionAt gr r.num).defer != 0 then startPass gr r.num s.tick else mergeRegion gr r.num s.tick)
        | none =>
          match gr.regions.find? waitsToMerge with
          | some r => some (keepSpilled gr (modGroup s g fun gr => modRegion gr r.num fun x => { x with phase := 2 }) g)
          | none => none

/-- Brings the tables to rest: every due arrival, discard, deferred pass and merge takes place (R99, R102, R104, R373). -/
def settle (g : Nat) : Nat → State → State
  | 0, s => s
  | n + 1, s => match settleOnce s g with
    | none => s
    | some s' => settle g n s'

/-- settle with enough rounds for nine splits and as many nested records as a spill area holds. -/
def settled (s : State) (g : Nat) : State := settle g (32 + 5 * (groupAt s g).regions.length) s

/-! ## Regang (R101) -/

/-- A split that a regang may take in: ready, or in STATE 2, which waits for results, translations, a FENCE, a SNAP's cut or its turn
to fault. -/
def mayMeet (sp : Split) : Bool :=
  sp.valid && !sp.halted && sp.inPass.isNone && (sp.st == .ready || sp.st == .waitBit) && match sp.park with
    | none | some (.snap _ _) | some .pendingFault => true
    | some (.walk ws) => ws.all fun w => w.fpc != 0
    | _ => false

/-- A split as it stands at its next instruction: one that waits for the cut of its SNAP has that instruction behind it (R101, R316),
and its marked lanes fault there (R253). -/
def atNext (sp : Split) : Split :=
  match sp.park with
  | some (.snap d k) =>
    let past := stepPast sp 1
    { past with
      count := 0, marked := []
      park := some (.walk [{ snap := some (d, k), lanes := sp.act, fpc := sp.pc, next := past.pc, faults := sp.marked }]) }
  | _ => sp

/-- Two splits that may merge at the end of a run of X. DEDUCED (log 67): a split that waits for the entries of a JT has no next
instruction yet, and so no PC that another could share. -/
def mayRegang (gr : Group) (x y : Nat) : Bool :=
  let a := splitAt gr x
  let b := splitAt gr y
  x != y && x < 8 && y < 8 && mayMeet a && mayMeet b && (atNext a).pc == (atNext b).pc && a.inner == b.inner
    && !(seqPending gr (a.qmask ||| b.qmask))

/-- What a split waits for at its next instruction: translations, a TLBI, a FENCE or a cut. -/
def waitingOf (sp : Split) : List Waiting := match sp.park with | some (.walk ws) => ws | _ => []

/-- The park of a merged split: what both wait for, and then the results of both where one waited for its own; or its turn to
fault. -/
def metPark (a b : Split) : Option Park :=
  let results := (a.st == .waitBit && a.park.isNone) || (b.st == .waitBit && b.park.isNone)
  match waitingOf a ++ waitingOf b with
  | [] => if a.park == some .pendingFault || b.park == some .pendingFault then some .pendingFault else none
  | w :: r => some (.walk ({ w with results := w.results || results } :: r))

/-- Whether a raise that waits for the handler is one of split x (R250). -/
def raisedBy (gr : Group) (x : Nat) (r : Raise) : Bool := (splitAt gr x).park == some .pendingFault && r.entry == x

/-- Merges X, which has just ended a run, with the first split it may regang with. DESIGN CHOICE (log 62): of several, the
one of the lowest entry; a pair that a pending sequencer register holds apart is looked at again when X next ends a run; the
merged split became ready when it merged (R230). Faults of either that wait for the handler are the merged split's. DESIGN CHOICE
(log 67): where the other waits for more than results, it first waits for that, and then for its turn to fault. -/
def regang (gr : Group) (x : Nat) (now : Nat) : Group :=
  match firstFrom 8 (mayRegang gr x) with
  | none => gr
  | some y =>
    let a := atNext (splitAt gr x)
    let b := atNext (splitAt gr y)
    let lo := min x y
    let hi := max x y
    let park := metPark a b
    let mine (r : Raise) : Bool := raisedBy gr x r || raisedBy gr y r
    let later := if park == some .pendingFault then [] else gr.waiting.filter mine
    let waiting := if park == some .pendingFault then gr.waiting.map fun r => if mine r then { r with entry := lo } else r
      else gr.waiting.filter fun r => !(mine r)
    let gr := freeSplit (unify { gr with waiting := waiting } (a.qmask ||| b.qmask)) hi
    modSplit gr lo fun _ =>
      { a with qmask := a.qmask ||| b.qmask, act := a.act ||| b.act, rejoin := a.rejoin ||| b.rejoin
               st := if a.st == .waitBit || b.st == .waitBit then .waitBit else .ready
               park := park, age := now, overdue := false, arrive := a.arrive ++ b.arrive
               marked := a.marked ++ b.marked, owed := a.owed ++ b.owed ++ later }

/-! ## Lanes that leave (R104) -/

/-- Takes lanes out of every split, record, waiting fault and quad set; their flags are set by the caller. Their results are
discarded when they return (R121), the entry loads of a JT (R118) that have returned at once. -/
def dropLanes (gr : Group) (m : LaneMask) : Group :=
  let live := liveMask gr
  let goneQ := maskOf 16 ((List.range gr.quads.length).filter fun k => (live &&& quadLanes k) == 0)
  { gr with
    splits := gr.splits.map fun sp =>
      { sp with act := sp.act &&& ~~~m, rejoin := sp.rejoin &&& ~~~m, qmask := sp.qmask &&& ~~~goneQ }
    reqs := gr.reqs.filter fun r => !(r.back && (r.lanes &&& ~~~m) == 0)
    regions := gr.regions.map fun r =>
      { r with defer := r.defer &&& ~~~m, blanes := r.blanes &&& ~~~m, members := r.members &&& ~~~goneQ
               arrived := r.arrived &&& ~~~goneQ }
    waiting := gr.waiting.map fun r => { r with lanes := r.lanes.filter fun x => !m.getLsbD x.1 }
    frame := gr.frame.map fun f => { f with flanes := f.flanes &&& ~~~m, wlanes := f.wlanes &&& ~~~m } }

end Sys2Proof.Machine
end

