-- ==== Sys2Proof/Machine/Ops.lean ====
section
/-!
DEFINITION. Taking a fault (R246 to R251) and returning from the handler (R252, Table 15.4), each as one operation; the
double fault (R251), the kill (R332) and the inline-detected error (R327, R328); the group image (Table 15.7).
-/

namespace Sys2Proof.Machine

/-- Slot 0 of the line at a function's entry VA (R12): an entry VA names its line, or the slot itself. -/
def entryPc (va : DWord) : DWord := if va &&& 127 == 0 then va + 16 else va

/-! ## After a park -/

/-- The instruction after the one at pc, as the split's line tells it. -/
def nextInstr (sp : Split) (pc : DWord) : DWord :=
  if sp.lineVa == lineOf pc && !sp.line.isEmpty then
    nextAddr sp pc (if isTwoWord (opcodeOf (slotWord sp.line (slotOf pc))) then 2 else 1)
  else pc + 4

/-- A split that has completed the instruction at which it was parked stands at the next one, newly ready (R259). Its marked
lanes, which had no part in the instruction, fault there before it issues again (R253). -/
def unparked (now : Nat) (sp : Split) : Split :=
  let past := stepPast sp (if isTwoWord (opcodeOf (slotWord sp.line (slotOf sp.pc))) then 2 else 1)
  { past with
    st := .ready, count := 0, age := now, overdue := false, marked := []
    owed := if sp.marked.isEmpty then sp.owed else sp.owed ++ [{ lanes := sp.marked, fpc := sp.pc, next := some past.pc }] }

/-! ## The group image (Table 15.7) -/

/-- STATE of a split as Table 6.4 encodes it; still tells whether the splits of its core stand still. -/
def stateCode (still : Bool) (sp : Split) : Nat :=
  if sp.halted || (still && sp.st != .issuing) then 9 else
    match sp.st with
    | .ready => 0 | .issuing => 1 | .waitBit => 2 | .atJoin => 3 | .atBar => 4 | .atQueue => 5 | .atWaita => 6
    | .atRgrow => 7 | .atApt => 8

/-- A split table entry's 128 bits. A free entry shows the reset values of Table 6.4, its PC the entry point. -/
def splitBits (gr : Group) (entry : DWord) (still : Bool) (sp : Split) : Nat :=
  if !sp.valid then entry.toNat / 4 % 2 ^ 50 * 4 + 0xFFFF * 2 ^ 84 else
    1 + (if sp.handler then 2 else 0) + sp.pc.toNat / 4 % 2 ^ 50 * 4 + placeCode gr sp.inner * 2 ^ 84
      + stateCode still sp * 2 ^ 104 + sp.qmask.toNat * 2 ^ 108

/-- Pending bits of a file's registers 0 to n − 1, as a number. -/
def pendingBits (gr : Group) (file : Table.RFile) (n : Nat) : Nat :=
  (List.range n).foldl (fun acc r => if isPending gr file r 1 then acc + 2 ^ r else acc) 0

/-- The record that stands in region table entry i. -/
def regionEntry (gr : Group) (i : Nat) : List Byte :=
  match gr.regions.find? (usesEntry i) with
  | some r => regionImage gr r
  | none => leBytes 64 (0xFFFF * 2 ^ 320)

/-- The 5,120 bytes of a group image (R261). -/
def groupImage (s : State) (g : Nat) : List Byte :=
  let gr := groupAt s g
  let w := wgOf s g
  let mask (p : Lane → Bool) : Nat :=
    (List.range (4 * gr.quads.length)).foldl (fun acc l => if p (laneAt gr l) then acc + 2 ^ l else acc) 0
  [BitVec.ofNat 8 w.aper, BitVec.ofNat 8 gr.num, BitVec.ofNat 8 gr.quads.length, 0] ++ leBytes 4 w.wgid.toNat
    ++ leBytes 8 (gr.restart.toNat / 4 * 4 + (if gr.idem then 1 else 0))
    ++ leBytes 32 (pendingBits gr .vec 256) ++ leBytes 8 (pendingBits gr .seq 64) ++ leBytes 8 (pendingBits gr .prd 16)
    ++ ((List.range 9).flatMap fun e => leBytes 16 (splitBits gr (entryPc (gridOf s g).recd.entry) (coreHalted s gr.part gr.core) (splitAt gr e))) ++ leBytes 48 0
    ++ ((List.range 8).flatMap fun i => regionEntry gr i)
    ++ ((List.range 16).flatMap fun k => leBytes 4 (modeOf gr k).toNat) ++ leBytes 16 0
    ++ leBytes 8 (mask (·.helper)) ++ leBytes 8 (mask (·.dead)) ++ leBytes 8 (mask (·.exited))
    ++ ((List.range 16).flatMap fun k => [BitVec.ofNat 8 (if k < gr.quads.length then (quadAt gr k).alloc / 8 else 0)])
    ++ leBytes 8 0
    ++ ((List.range 64).flatMap fun l => leBytes 2 ((laneAt gr l).p.toNat + (if l < 4 * gr.quads.length then 1 else 0)))
    ++ ((List.range 16).flatMap fun k => (List.range 64).flatMap fun r => leBytes 4 (sGet gr k r).toNat)

/-- Bytes go to a partition's dump buffer at a physical address of HBM: what lies in a frame that it does not own is not written, and
is entered in the ring, once for each such frame (R298). -/
def dumpStore (p addr : Nat) (bytes : List Byte) (s : State) : State :=
  let at_ (x : Nat × Nat) : Loc := ⟨.hbm, addr + x.1⟩
  let pieces := sectorPieces addr bytes.length
  let s := (pieces.filter fun x => ownsLoc s p (at_ x)).foldl (fun (s : State) (x : Nat × Nat) =>
    putPiece p (at_ x) ((bytes.drop x.1).take (x.2 - x.1)) s) s
  let foreign := distinct ((pieces.filter fun x => !(ownsLoc s p (at_ x))).map fun x => (addr + x.1) / 65536)
  foreign.foldl (fun s f => unitForeign p (max addr (f * 65536)) f s) s

/-- Writes records to a partition's dump buffer (R264, R302 step 2): a header, with the time of the freeze, then group image and trap
frame of each group that fits. DESIGN CHOICE (log 61): the time has 8 bytes at 0x00 of the header, the count 8 at 0x08; a trap frame
whose page has no translation is dumped as a unit reads there (log 12). -/
def dumpGroups (s : State) (p : Nat) (gs : List Nat) : State :=
  let cfg := cfgOf s p
  let room := (cfg.dumpSize - 64) / 6272
  let fits := gs.take room
  let s := if cfg.dumpSize < 64 then s else
    dumpStore p cfg.dumpBase
      (leBytes 8 (if (partAt s p).frozen then (partAt s p).frozenAt else s.now) ++ leBytes 8 fits.length ++ leBytes 8 (if fits.length < gs.length then 1 else 0) ++ leBytes 40 0) s
  ((List.range fits.length).zip fits).foldl (fun s e =>
    let frame := (List.range 9).flatMap fun i =>
      (unitRead s p (frameVa s e.2 + BitVec.ofNat 64 (128 * i)) 128).getD
        ((List.range 128).map fun j => Config.unmappedByte s.tick (128 * i + j))
    noteSpan p (frameVa s e.2) 1152 (dumpStore p (cfg.dumpBase + 64 + 6272 * e.1) (groupImage s e.2 ++ frame) s)) s

/-! ## Faults that end a group -/

/-- Records a fault in lanes: code and address (R36). -/
def recordFault (gr : Group) (lanes : List Nat) (code : Nat) (addr : DWord) : Group :=
  each lanes (fun l gr => modLane gr l fun ln => { ln with fault := BitVec.ofNat 32 code, faddr := addr }) gr

/-- A double fault (R251): code 20 in every live lane, every split halts, the dump is written, the tenant is told, and
the grid is faulted. The entry's recorded PC is set. -/
def doubleFault (s : State) (g e : Nat) (pc addr : DWord) (detail : Nat) : State :=
  let s := modGroup s g fun gr =>
    let gr := recordFault gr (liveLanes gr) 20 addr
    let gr := modSplit gr e fun sp => { sp with pc := pc }
    { gr with stopped := true, waiting := [], splits := gr.splits.map fun sp => { sp with halted := sp.valid } }
  let s := dumpGroups s (groupAt s g).part [g]
  let s := ringGroup s g 10 addr.toNat detail
  modGrid s (wgOf s g).grid fun gd => { gd with faulted := true, faults := gd.faults + 1 }

/-- A group is killed with code 19 (R332, R36): its lanes count as exited for barriers, and the grid is faulted. -/
def killGroup (s : State) (g : Nat) (addr : DWord) : State :=
  let s := modGroup s g fun gr =>
    let gr := recordFault gr (liveLanes gr) 19 addr
    { gr with killed := true, waiting := [], restarting := false
              splits := gr.splits.map fun sp => { sp with halted := sp.valid } }
  let s := modWg (ringGroup s g 9 addr.toNat (groupAt s g).num) (groupAt s g).wg fun x => { x with broken := true }
  modGrid s (wgOf s g).grid fun gd => { gd with faulted := true, faults := gd.faults + 1 }

/-- An inline-detected error that resolves to a restart, or to a kill without a current region or at the fourth restart
of one (R327, R328). class is the memory class for the error entry, 0 for a residue or checksum mismatch. -/
def inlineError (s : State) (g : Nat) (addr : DWord) (cls : Nat) : State :=
  let gr := groupAt s g
  if gr.idem && gr.restarts < 3 then
    modGroup s g fun gr => { gr with restarting := true, restarts := gr.restarts + 1, restartMem := cls }
  else if gr.idem then
    let s := killGroup s g addr
    modCore s gr.part gr.core fun c => { c with forward := true }
  else killGroup s g addr

/-! ## Taking a fault -/

/-- Bytes of the trap frame's fixed fields, offsets 0x000 to 0x03F (Table 15.3). -/
def frameHead (fpc : DWord) (flanes ft : LaneMask) (rentry jtreg : Nat) (wlanes : LaneMask) : List Byte :=
  leBytes 8 fpc.toNat ++ leBytes 8 flanes.toNat ++ leBytes 8 ft.toNat ++ leBytes 4 rentry ++ leBytes 4 jtreg
    ++ leBytes 8 wlanes.toNat ++ leBytes 24 0

/-- s48 to s63 of a quad. -/
def seqTop (gr : Group) (k : Nat) : List Byte := (List.range 16).flatMap fun i => leBytes 4 (sGet gr k (48 + i)).toNat

/-- What a quad receives at handler entry (R248): its registers are written like any others (R329, R331). -/
def enterQuad (va fpc arg : DWord) (flanes : LaneMask) (k : Nat) (gr : Group) : Group :=
  let gr := setMode gr k 0
  let gr := sSetPair gr k 48 va
  let gr := sSetPair gr k 50 fpc
  let gr := sSetPair gr k 52 arg
  let gr := sSet gr k 54 ((flanes >>> (4 * k)).setWidth 32 &&& 15)
  sSet gr k 55 0

/-- The handler vector of a group: FHV of its launch record, vector 0 for a handler group (R248, R220). -/
def handlerVector (s : State) (g : Nat) : DWord × DWord :=
  nth (0, 0) (cfgOf s (groupAt s g).part).hvec (gridOf s g).recd.fhv

/-- Lanes of split e fault (R247, R248): the handler split is formed in entry 8. -/
def enterHandler (s : State) (g : Nat) (r : Raise) : State :=
  let gr := groupAt s g
  let (entryVa, arg) := handlerVector s g
  let lanes := r.lanes.map (·.1)
  let low := (r.lanes.head?.getD (0, 0, 0)).2
  if entryVa == 0 then doubleFault s g r.entry r.fpc low.2 (0x100 + low.1)
  else
    let sp := splitAt gr r.entry
    let flanes := maskOf 64 lanes
    let fq := quadsOfLanes flanes &&& sp.qmask
    let all := (sp.qmask &&& ~~~fq) == 0
    let (quads, rentry) :=
      if all then (fq, r.entry)
      else match freeEntry gr with
        | some n => (fq, n)
        | none => (sp.qmask, r.entry)
    let wlanes := (sp.act ||| sp.rejoin) &&& lanesOfQuads quads &&& ~~~flanes
    let va := frameVa s g
    let s := match r.resume with | .jtLoad n => regionTake s g n | _ => s
    let gr := groupAt s g
    let jtreg := match r.resume with | .jtLoad n => placeCode gr (some n) | _ => 0xFFFF
    let s := unitWrite s gr.part va (frameHead r.fpc flanes r.ft rentry jtreg wlanes)
    let s := each (bitsOf quads) (fun k s =>
      let s := unitWrite s gr.part (va + BitVec.ofNat 64 (0x40 + 4 * k)) (leBytes 4 (modeOf gr k).toNat)
      unitWrite s gr.part (va + BitVec.ofNat 64 (0x80 + 64 * k)) (seqTop gr k)) s
    let s := modGroup s g fun gr =>
      let gr := each (bitsOf quads) (enterQuad va r.fpc arg flanes) gr
      let gr := match r.resume with
        | .jtLoad n => modRegion gr n fun x => { x with defer := x.defer ||| wlanes }
        | _ => gr
      let whole := rentry == r.entry
      let gr := if whole then freeSplit gr r.entry
        else modSplit gr r.entry fun x =>
          { x with qmask := x.qmask &&& ~~~quads, act := x.act &&& ~~~(lanesOfQuads quads), owed := owedIn (~~~(lanesOfQuads quads)) x.owed
                   rejoin := x.rejoin &&& ~~~(lanesOfQuads quads) }
      let gr := modSplit gr 8 fun _ =>
        { valid := true, handler := true, qmask := quads, inner := sp.inner, pc := entryPc entryVa, act := flanes
          inPass := sp.inPass, age := s.tick }
      let f : Frame :=
        { rentry := rentry, va := va, inner := sp.inner, flanes := flanes, wlanes := wlanes, fpc := r.fpc
          resume := r.resume, next := r.next.getD (nextInstr sp r.fpc), arrive := r.arrive, arg := arg
          held := sp.rejoin &&& lanesOfQuads quads, owed := if whole then sp.owed else owedIn (lanesOfQuads quads) sp.owed }
      { gr with frame := some f }
    let s := modGrid s (wgOf s g).grid fun gd => { gd with faults := gd.faults + 1 }
    settled s g

/-- TAKING A FAULT: the faulting lanes of one split record their codes and addresses and enter the handler (R247); in the
handler split they double-fault (R251); while the handler is busy the split parks and the fault waits (R250). -/
def trapEntry (s : State) (g : Nat) (r : Raise) : State :=
  if r.lanes.isEmpty then s else
  let low := (r.lanes.head?.getD (0, 0, 0)).2
  if r.entry == 8 then doubleFault s g 8 r.fpc low.2 low.1
  else
    let s := modGroup s g fun gr => r.lanes.foldl (fun gr f => recordFault gr [f.1] f.2.1 f.2.2) gr
    match (groupAt s g).frame with
    | some _ =>
      modGroup s g fun gr =>
        let gr := modSplit gr r.entry fun sp => if sp.valid then { sp with st := .waitBit, park := some .pendingFault } else sp
        { gr with waiting := gr.waiting ++ [r] }
    | none => enterHandler s g r

/-- Every lane of a list with one code and address. -/
def sameFault (lanes : List Nat) (code : Nat) (addr : DWord) : List (Nat × Nat × DWord) :=
  lanes.map fun l => (l, code, addr)

/-! ## Returning -/

/-- Bytes 0x040 to 0x47F of the trap frame as RETT reads them (R249); where no page maps them, free values. -/
def frameBytes (s : State) (g : Nat) (off n : Nat) : List Byte :=
  match (groupAt s g).frame with
  | none => []
  | some f =>
    (unitRead s (groupAt s g).part (f.va + BitVec.ofNat 64 off) n).getD
      ((List.range n).map fun i => Config.unmappedByte s.tick (off + i))

/-- The mode word that the trap frame holds for quad k. -/
def frameMode (s : State) (g k : Nat) : Word := BitVec.ofNat 32 (leNat (frameBytes s g (0x40 + 4 * k) 4))

/-- The mode word that a quad takes from memory. DESIGN CHOICE (log 61): where no rule checks it first, a reserved value is not taken,
since the mode word never holds one (R20), and the quad keeps its own. -/
def modeFrom (old m : Word) : Word := if Table.reservedMode m then old else m

/-- Gives a quad its mode word and s48 to s63 back (R252 step 1). -/
def restoreQuad (s0 : State) (g : Nat) (k : Nat) (s : State) : State :=
  let bytes := frameBytes s0 g (0x80 + 64 * k) 64
  modGroup s g fun gr =>
    let gr := setMode gr k (modeFrom (modeOf gr k) (frameMode s0 g k))
    each (List.range 16) (fun i gr => sSet gr k (48 + i) (BitVec.ofNat 32 (leNat ((bytes.drop (4 * i)).take 4)))) gr

/-- The return split of Table 15.4, before it settles: PC, whether to continue after it, arrival, active and rejoining
lanes. -/
def returnSplit (gr : Group) (f : Frame) (sp8 : Split) (skip : Bool) (now : Nat) : Split :=
  let live := liveMask gr
  let fl := f.flanes &&& live
  let wl := f.wlanes &&& live
  let base : Split :=
    { valid := true, qmask := sp8.qmask, inner := f.inner, inPass := sp8.inPass, age := now, pc := f.fpc, owed := f.owed }
  -- lanes that were to become active only after FPC's instruction still are
  let held := f.held &&& live
  match f.resume, skip with
  | .plain, false => { base with act := fl, rejoin := wl }
  | .plain, true => { base with act := fl ||| wl, pc := f.next }
  | .fetch, false => { base with act := (fl ||| wl) &&& ~~~held, rejoin := held, arrive := f.arrive }
  | .fetch, true => { base with act := fl ||| wl, pc := (f.fpc &&& ~~~127) + 128 + 16 }
  | .dest t, false => { base with act := fl ||| wl, pc := t, arrive := f.arrive }
  | .dest _, true => { base with act := fl ||| wl, pc := f.next }
  | .before, false => { base with act := (fl ||| wl) &&& ~~~held, rejoin := held }
  | .before, true =>
    if wl &&& ~~~held == 0 then { base with act := fl ||| wl, pc := f.next } else { base with act := wl &&& ~~~held, rejoin := fl ||| held }
  | .jtLoad _, false => { base with act := 0 }
  | .jtLoad _, true => { base with act := fl, pc := f.next }

/-- RETURNING FROM THE HANDLER (R252 steps 1 to 3, Table 15.4): the quads' registers are restored, entry 8 is freed and
the return split built; then the oldest waiting fault enters (R250). -/
def returnHandler (s : State) (g : Nat) (skip : Bool) : State :=
  match (groupAt s g).frame with
  | none => s
  | some f =>
    let sp8 := splitAt (groupAt s g) 8
    let s := noteSpan (groupAt s g).part f.va 1152 (each (bitsOf sp8.qmask) (restoreQuad s g) s)
    let s := match f.resume, skip with | .jtLoad n, false => regionTake s g n | _, _ => s
    let s := modGroup s g fun gr =>
      let ret := returnSplit gr f sp8 skip s.tick
      let gr := match f.resume, skip with
        | .jtLoad n, false => modRegion gr n fun r => { r with defer := r.defer ||| (f.flanes &&& liveMask gr) }
        | _, _ => gr
      let gr := { gr with frame := none, regions := gr.regions.filter fun r => !(openedInside gr f.inner r) }
      let gr := freeSplit gr 8
      modSplit gr f.rentry fun _ => if sp8.qmask == 0 then {} else ret
    let s := settled s g
    -- the oldest waiting fault whose lanes have not all died in the meantime enters; the splits of the others go on
    let due := (groupAt s g).waiting.dropWhile fun r => r.lanes.isEmpty
    let freed := (groupAt s g).waiting.takeWhile fun r => r.lanes.isEmpty
    let release (gr : Group) (r : Raise) : Group :=
      modSplit gr r.entry fun sp => if sp.valid then { sp with st := .ready, park := none, age := s.tick } else sp
    let s := modGroup s g fun gr =>
      { (freed.filter fun r => due.all (·.entry != r.entry)).foldl release gr with waiting := due.drop 1 }
    match due with
    | [] => s
    | r :: rest => modGroup (enterHandler (modGroup s g fun gr => release gr r) g r) g (stillWaiting r.entry rest)
where
  /-- Further faults that wait in the same split, which a regang has brought together (R101): those of quads that have entered the
  handler are owed when it returns, the others keep their place and their split parked (R250). -/
  stillWaiting (e : Nat) (rest : List Raise) (gr : Group) : Group :=
    let inside := lanesOfQuads (splitAt gr 8).qmask
    let left := rest.flatMap fun r => if r.entry == e then owedIn (~~~inside) [r] else [r]
    let gr := { gr with waiting := left, frame := gr.frame.map fun f => { f with owed := f.owed ++ owedIn inside rest } }
    if gr.frame.isSome && left.any (·.entry == e) then modSplit gr e fun sp => { sp with st := .waitBit, park := some .pendingFault }
    else gr
  /-- A record that the handler opened: its chain of parents reaches the handler's INNER from inside (R121). -/
  openedInside (gr : Group) (inner : Option Nat) (r : Region) : Bool :=
    let sp8 := splitAt gr 8
    let rec chain : Nat → Option Nat → Bool
      | 0, _ => false
      | n + 1, cur => if cur == inner then false else
          match cur with
          | none => false
          | some k => k == r.num || chain n (regionAt gr k).parent
    chain (gr.regions.length + 1) sp8.inner

end Sys2Proof.Machine
end

