-- ==== Sys2Proof/Machine/Barrier.lean ====
section
/-!
DEFINITION. Barrier instances (R178 to R180), and the leaving of lanes by EXIT, death or demotion (R104, R121, R122, R332)
with the recomputation of open instances (R179).
-/

namespace Sys2Proof.Machine

/-- A group whose lanes count: neither killed (R332), halted for good (R236) nor gone. -/
def groupCounts (gr : Group) : Bool := !gr.killed && !gr.stopped && !gr.gone

/-- Whether quad q of a workgroup holds a live lane that is not a helper lane. -/
def quadReal (s : State) (w q : Nat) : Bool :=
  (wgAt s w).groups.any fun g =>
    let gr := groupAt s g
    groupCounts gr && (List.range gr.quads.length).any fun k =>
      (quadAt gr k).q == q && (List.range 4).any fun j => laneReal gr (4 * k + j)

/-- The quads of a workgroup that hold a live real lane. -/
def realQuads (s : State) (w : Nat) : List Nat :=
  (List.range (((wgAt s w).wgsz + 3) / 4)).filter (quadReal s w)

/-- Whether a workgroup has no lane left (R121, R236). -/
def wgEnded (s : State) (w : Nat) : Bool :=
  (wgAt s w).groups.all fun g =>
    let gr := groupAt s g
    !groupCounts gr || (liveLanes gr).isEmpty

/-- The quads that a presented BAR mask names once recomputed (R178, R179). -/
def barMask (s : State) (w : Nat) (m : DWord) : List Nat := (realQuads s w).filter fun q => m.getLsbD q

/-- The gang positions that a presented GBAR mask names once recomputed (R180). -/
def gbarMask (s : State) (k : Nat) (m : DWord) : List Nat :=
  let gg := gangAt s k
  (List.range gg.size).filter fun i => m.getLsbD (i % 64) && !(wgEnded s (nth 0 gg.wgs i))

/-- The splits parked at an instance, by ascending group and entry; those of a group that has ended take part in none (R332). -/
def atInstance (s : State) (groups : List Nat) (gang : Bool) (seq : Nat) : List (Nat × Nat) :=
  (groups.filter fun g => groupCounts (groupAt s g)).flatMap fun g =>
    (positions (fun sp => sp.valid && sp.park == some (.bar gang seq)) (groupAt s g).splits).map fun e => (g, e)

/-- Every parked participant continues after its barrier instruction. -/
def releaseSplits (s : State) (l : List (Nat × Nat)) : State :=
  l.foldl (fun s ge =>
    let s := modGroup s ge.1 fun gr => modSplit gr ge.2 (unparked s.tick)
    noteAcquire (settled s ge.1) ge.1) s

/-- The faults at the barrier of a failed instance: code 8 of the active lanes, and those of the lanes that were marked there (R253). -/
def failLanes (gr : Group) (sp : Split) : List (Nat × Nat × DWord) :=
  sortBy (fun x y => x.1 ≤ y.1) (sameFault (bitsOf sp.act) 8 sp.pc ++ sp.marked.filter fun x => laneLive gr x.1)

/-- Every participant of a failed instance takes code 8, split by split (R178, R246). -/
def failSplits (s : State) (l : List (Nat × Nat)) : State :=
  let s := l.foldl (fun s ge => modGroup s ge.1 fun gr =>
    modSplit gr ge.2 fun sp => { sp with st := .ready, park := none }) s
  l.foldl (fun s ge =>
    let sp := splitAt (groupAt s ge.1) ge.2
    let lanes := failLanes (groupAt s ge.1) sp
    trapEntry (modGroup s ge.1 fun gr => modSplit gr ge.2 fun sp => { sp with marked := [] }) ge.1
      { entry := ge.2, lanes := lanes, fpc := sp.pc }) s

/-- Judges an instance: it fails, completes or stays open. arrivals are those that still count; mask gives what a
presented mask names now; own names the arrival itself; here tells whether a name has arrived. With no arrival left it neither completes
nor fails (R179). -/
def judge (arrivals : List Arrival) (mask : DWord → List Nat) (own : Arrival → Nat) (here : Nat → Bool) : Option Bool :=
  match arrivals with
  | [] => none
  | a0 :: _ =>
    let m := mask a0.mask
    if arrivals.any fun a => mask a.mask != m || !(m.contains (own a)) then some false
    else if m.all here then some true
    else none

/-- Looks again at the workgroup's open BAR instance (R178, R179). -/
def checkBar (s : State) (w : Nat) : State :=
  let wg := wgAt s w
  let parked := atInstance s wg.groups false wg.bar.seq
  if parked.isEmpty then s else
    let arrivals := wg.bar.arrivals.filter fun a => quadReal s w a.q
    let s := modWg s w fun x => { x with bar := { x.bar with arrivals := arrivals } }
    match judge arrivals (barMask s w) (·.q) (fun q => arrivals.any (·.q == q)) with
    | none => s
    | some ok =>
      let s := modWg s w fun x => { x with bar := { seq := x.bar.seq + 1, arrivals := [] } }
      if ok then releaseSplits s parked else failSplits s parked

/-- Looks again at the gang's open GBAR instance (R180). -/
def checkGbar (s : State) (k : Nat) : State :=
  let gg := gangAt s k
  let groups := gg.wgs.flatMap fun w => (wgAt s w).groups
  let parked := atInstance s groups true gg.gbar.seq
  if parked.isEmpty then s else
    let arrivals := gg.gbar.arrivals.filter fun a => quadReal s (nth 0 gg.wgs a.pos) a.q
    let s := modGang s k fun x => { x with gbar := { x.gbar with arrivals := arrivals } }
    let here (i : Nat) : Bool :=
      (realQuads s (nth 0 gg.wgs i)).all fun q => arrivals.any fun a => a.pos == i && a.q == q
    match judge arrivals (gbarMask s k) (·.pos) here with
    | none => s
    | some ok =>
      let s := modGang s k fun x => { x with gbar := { seq := x.gbar.seq + 1, arrivals := [] } }
      if ok then releaseSplits s parked else failSplits s parked

/-- R179: open instances that a group's lanes may be part of. -/
def checkBarriers (s : State) (g : Nat) : State :=
  let w := (groupAt s g).wg
  checkGbar (checkBar s w) (wgAt s w).gang

/-- The groups that a step has ended: killed, halted for good, or gone. -/
def endedGroups (s s' : State) : List Nat :=
  (List.range s.groups.length).filter fun g => groupCounts (groupAt s g) && !(groupCounts (groupAt s' g))

/-- After a change from s to s' every open instance of a group that has ended is looked at again (R179, R180, R332); an instance
that fails may end further groups. -/
def recheckEnded : Nat → State → State → State
  | 0, _, s' => s'
  | n + 1, s, s' =>
    match endedGroups s s' with
    | [] => s'
    | gs => recheckEnded n s' (gs.foldl checkBarriers s')

/-- A handler whose lanes are all gone ends as RETT with D = 1 would (R121): the MODE check of R252 is made, INNER is
not checked. pc is the address that a double fault records. -/
def endEmptyHandler (s : State) (g : Nat) (pc : DWord) : State :=
  let gr := groupAt s g
  let sp8 := splitAt gr 8
  let noneLeft : Bool := match gr.frame with | some f => f.flanes == 0 | none => false
  if sp8.valid && noneLeft && !gr.stopped then
    if (bitsOf sp8.qmask).any fun k => Table.reservedMode (frameMode s g k) then doubleFault s g 8 pc pc 0x201
    else returnHandler s g true
  else s

/-- A split that has lost its last active lane while marked lanes wait at its instruction: these are to fault when it is next given
a jet (R253). -/
def owedAlone (s : State) (g : Nat) : State :=
  each (List.range 8) (fun e s =>
    let sp := splitAt (groupAt s g) e
    if !sp.valid || sp.act != 0 || sp.st == .issuing || sp.marked.isEmpty then s
    else modGroup s g fun gr => modSplit gr e fun sp =>
      { sp with st := .ready, park := none, age := s.tick, marked := [], owed := sp.owed ++ [{ lanes := sp.marked, fpc := sp.pc }] }) s

/-- Lanes leave at once and for good (R104): the caller has marked them exited or dead. -/
def lanesGone (s : State) (g : Nat) (lanes : List Nat) (pc : DWord) : State :=
  let m := maskOf 64 lanes
  let before := groupAt s g
  let s := keepSpilled before (modGroup s g fun gr => dropLanes gr m) g
  -- the handler's end discards the regions that it opened, which therefore never merge
  checkBarriers (owedAlone (settled (endEmptyHandler s g pc) g) g) g

/-- EXIT of lanes (R121). -/
def exitLanes (s : State) (g : Nat) (lanes : List Nat) (pc : DWord) : State :=
  lanesGone (modGroup s g fun gr => each lanes (fun l gr => modLane gr l fun ln => { ln with exited := true }) gr)
    g lanes pc

/-- Death of lanes (R332): DEAD rises and an entry of kind 8 names each. -/
def killLanes (s : State) (g : Nat) (lanes : List Nat) (pc : DWord) : State :=
  let lanes := (distinct lanes).filter (laneLive (groupAt s g))
  if lanes.isEmpty then s else
    let s := modGroup s g fun gr => each lanes (fun l gr => modLane gr l fun ln => { ln with dead := true }) gr
    let s := each lanes (fun l s => ringGroup s g 8 pc.toNat l) s
    let s := modGrid s (wgOf s g).grid fun gd => { gd with deadLanes := gd.deadLanes + lanes.length }
    lanesGone s g lanes pc

/-- DEMOTE of lanes (R122). -/
def demoteLanes (s : State) (g : Nat) (lanes : List Nat) : State :=
  checkBarriers (modGroup s g fun gr =>
    each lanes (fun l gr => modLane gr l fun ln =>
      if ln.helper then ln else { ln with helper := true, demoted := true }) gr) g

end Sys2Proof.Machine
end

