-- ==== Sys2Proof/Machine/Operands.lean ====
section
/-!
DEFINITION. The order of checks of R35 with the lanes that take each decode fault, the consumption of poison and of
uncorrectable registers (R327, R331), and what happens when an instruction has acted: the PC, the run (R17), the park,
the trap. Every instruction's meaning is this frame around an effect of its own. No instruction that acts once for its
split names a vector register or is checked against TYPE or MSIZE, so the per-quad checks 6 and 7 never divide one.
-/

namespace Sys2Proof.Machine

/-- What an effect is given: the split, its fields, and the quads and lanes that passed every check. -/
structure Env where
  s : State
  g : Nat
  e : Nat
  op : Nat
  d : Nat
  a : Nat
  b : Nat
  l : Word
  pc : DWord
  quads : List Nat
  act : List Nat
  lanes : List Nat
deriving Repr

/-- How the split goes on. -/
inductive Flow where
  | next                                   -- at the next instruction, in the same run
  | endRun                                 -- at the next instruction, in a new run
  | hold (st : SState) (p : Option Park)   -- parks at this instruction
  | translate (w : Waiting)                -- at the next instruction, parked for translations (R242)
  | yield                                  -- issue backpressure: tries again at its next grant (R17)
  | placed (ends : Bool)                   -- the effect has set the tables itself
deriving DecidableEq, Repr

/-- Whether the instruction is still to be completed: its faults are raised when it is. -/
def Flow.waits (f : Flow) : Bool :=
  match f with
  | .hold _ _ | .yield | .translate _ => true
  | _ => false

/-- What an effect gives: the state, the faults of lanes (ascending), and how the split goes on. -/
structure Eff where
  s : State
  faults : List (Nat × Nat × DWord) := []
  ft : LaneMask := 0
  resume : Resume := .plain
  flow : Flow := .next

def Env.gr (v : Env) : Group := groupAt v.s v.g
def Env.sp (v : Env) : Split := splitAt v.gr v.e
/-- The lowest quad of S with a lane in active(S). -/
def Env.q0 (v : Env) : Nat := v.quads.headD 0
/-- A fault of every active lane of the split. -/
def Env.allFault (v : Env) (code : Nat) (addr : DWord) : Eff := { s := v.s, faults := sameFault v.act code addr }

/-! ## Checks 3 to 8 (R35) -/

/-- Whether an instruction consults GUARD (R19). -/
def usesGuard (op a : Nat) (r : Row) : Bool := Table.takesGuarded op r a || op == 0x33

/-- The first of checks 6 and 7 that a quad fails: 0 for none. -/
def quadCheck (gr : Group) (op d a b : Nat) (r : Row) (k : Nat) : Nat :=
  let m := modeOf gr k
  if !((Table.runs op r m d a b).all (Table.runOk (quadAt gr k).alloc)) then 10
  else if !(Table.modeOk op m) then 16
  else 0

/-- The second register of the pair that a queue instruction names where the queue's slots have 8 bytes (R183, R184). -/
def queueHigh (s : State) (g op d a b : Nat) : Option Nat :=
  let at' (n r : Nat) : Option Nat := if (nth {} (gangOf s g).queues n).slotsz == 8 then some (r + 1) else none
  match op with
  | 0xA4 => at' d a
  | 0xA5 => at' a d
  | 0xA6 => at' b a
  | 0xA7 => at' a d
  | _ => none

/-- Whether a register may hold a value of a queue: code 5 for an undefined queue, 10 for an odd base of a pair (R183). -/
def queueFault (q : Queue) (r : Nat) : Nat :=
  if !q.defined then 5 else if q.slotsz == 8 && (r % 2 != 0 || 63 < r + 1) then 10 else 0

/-- What an instruction on a queue finds of it. DEDUCED (log 61): the faults that R183 gives are found at the steps of R35 that
have their codes. -/
def queueCheck (s : State) (g op d a b : Nat) : Nat :=
  let at' (n r : Nat) : Nat := queueFault (nth {} (gangOf s g).queues n) r
  match op with
  | 0xA4 => at' d a
  | 0xA5 => at' a d
  | 0xA6 => at' b a
  | 0xA7 => at' a d
  | _ => 0

/-- Whether some register that the instruction names in some quad is pending (R19). -/
def anyPending (s : State) (g op d a b : Nat) (r : Row) (quads : List Nat) : Bool :=
  let gr := groupAt s g
  (quads.any fun k => (Table.runs op r (modeOf gr k) d a b).any fun u => isPending gr u.file u.base u.count)
    || (queueHigh s g op d a b).any fun x => isPending gr .seq x 1

/-- R177: a quad that holds an active lane whose guard is 1 holds a k outside −64 to 63. -/
def redxBad (gr : Group) (d : Nat) (lanes : List Nat) : Bool :=
  lanes.any fun l => let k := (sGet gr (l / 4) d).toInt; k < -64 || 63 < k

/-- Check 4: privilege, snapshot permission, CHDEF grant (R33). -/
def privBad (s : State) (g e op : Nat) (r : Row) : Bool :=
  (r.priv && !(isSuper s g e))
    || (op == 0xC4 && !(isSuper s g e) && !(gridOf s g).recd.snap)
    || (op == 0xB2 && !(cfgOf s (groupAt s g).part).chdefGrant)

/-- The lanes that take a decode fault of the instruction (R35): the active ones; of a guarded instruction those whose
guard is 1, or all while the guard predicate is pending. -/
def takers (s : State) (g e op a : Nat) : List Nat :=
  let gr := groupAt s g
  let act := (splitAt gr e).act
  let r := (Table.row op).getD {}
  let guardPend := usesGuard op a r && (bitsOf (quadsOfLanes act)).any fun k => isPending gr .prd (Table.guardOf (modeOf gr k)) 1
  (bitsOf act).filter fun l => !(Table.takesGuarded op r a) || guardPend || guardOn gr l

/-- MRD and MWR: R207 has codes 10 and 4 taken by every active lane. DEDUCED (log 61): R207 goes before the guard and the
division by quads of R35. -/
def wholeSplit (op : Nat) : Bool := op == 0xB8 || op == 0xB9

/-- The outcome of checks 4 to 8: the faults they raise, and the quads that go on (none where every lane faults). -/
def checks (s : State) (g e op d a b : Nat) (resumed : Bool) : List (Nat × Nat × DWord) × List Nat :=
  let gr := groupAt s g
  let sp := splitAt gr e
  let pc := sp.pc
  let r := (Table.row op).getD {}
  let quads := bitsOf (quadsOfLanes sp.act)
  let takers := takers s g e op a
  if privBad s g e op r then (sameFault takers 6 pc, [])
  else if !(Table.fieldsOk r d a b) || (op == 0x9B && redxBad gr d takers) || queueCheck s g op d a b == 5 then
    (sameFault takers 5 pc, [])
  else if queueCheck s g op d a b == 10 then (sameFault takers 10 pc, [])
  else
    let bad := (takers.filterMap fun l =>
      let c := quadCheck gr op d a b r (l / 4)
      if c == 0 then none else some (l, c, pc))
    let good := quads.filter fun k => quadCheck gr op d a b r k == 0
    if wholeSplit op && good.length != quads.length then (sameFault (bitsOf sp.act) 10 pc, [])
    else if !resumed && anyPending s g op d a b r good then
      let takers := if wholeSplit op then bitsOf sp.act else takers
      let hz := sameFault (takers.filter fun l => good.contains (l / 4)) 4 0
      (bad ++ hz, [])
    else (bad, good)

/-! ## Errors and poison met by a source operand (R327, R331) -/

/-- Source lane of QSWZ, SHFL, SHFX and SHUP for a reading lane; none where the lane reads no other lane's register
(SHUP below lane 0). Its own lane where the index lies beyond the group (R128 to R130). -/
def sourceLane (gr : Group) (op b l : Nat) : Option Nat :=
  let n := 4 * gr.quads.length
  let within (j : Nat) : Nat := if j < n then j else l
  match op with
  | 0x70 => some (l / 4 * 4 + b / 4 ^ (l % 4) % 4)
  | 0x71 => some (within (vGet gr l b).toNat)
  | 0x72 => some (within ((BitVec.ofNat 32 l) ^^^ vGet gr l b).toNat)
  | _ => if l < b then none else some (l - b)

/-- The vector words that lane l reads as operands, by lane and register. -/
def vecReads (gr : Group) (op d a b : Nat) (r : Row) (l : Nat) : List (Nat × Nat) :=
  let us := (Table.runs op r (modeOf gr (l / 4)) d a b).filter fun u => u.file == .vec && u.src
  if 0x70 ≤ op && op ≤ 0x73 then
    (match sourceLane gr op b l with | some j => if laneLive gr j then [(j, a)] else [] | none => [])
      ++ (if op == 0x71 || op == 0x72 then [(l, b)] else [])
  else if op == 0x68 then (if laneLive gr (l / 4 * 4 + b) then [(l / 4 * 4 + b, a)] else [])
  else us.flatMap fun u => (List.range u.count).map fun i => (l, u.base + i)

/-- The sequencer words that quad k reads; a push of 8 bytes reads a pair. -/
def seqReads (s : State) (g op d a b : Nat) (r : Row) (k : Nat) : List Nat :=
  (((Table.runs op r (modeOf (groupAt s g) k) d a b).filter fun u => u.file == .seq && u.src).flatMap fun u =>
    (List.range u.count).map fun i => u.base + i)
  ++ (if op == 0xA4 || op == 0xA6 then (queueHigh s g op d a b).toList else [])

/-- The predicates that an executing lane of quad k reads; p0 is a constant (R11). -/
def predReads (gr : Group) (op d a b : Nat) (r : Row) (k : Nat) : List Nat :=
  ((Table.runs op r (modeOf gr k) d a b).filter fun u => u.file == .prd && u.src && u.base != 0).map (·.base)

/-- The guard predicate that every active lane of quad k reads, where the instruction consults it (R19). -/
def guardRead (gr : Group) (op a : Nat) (r : Row) (k : Nat) : List Nat :=
  let p := Table.guardOf (modeOf gr k)
  if usesGuard op a r && p != 0 then [p] else []

/-- What reading the operands comes to: the lanes that die first, and whether the group restarts. -/
inductive Met where
  | clean
  | restart (dead : List Nat)
  | dies (lanes : List Nat)
deriving DecidableEq, Repr

/-- Whether an instruction reads its sequencer operands in the lowest quad of S alone: GRES, QDEF, PUSH, PUSHN, COPY, CHDEF, MACQ,
MSHP, MZERO, SLK, CIRC, GENQ, GREL, and SETS of %late (R183 to R187, R192, R199, R202, R206, R255, R273, R274, R318, R319). -/
def readsLowest (op : Nat) : Bool :=
  [0xA3, 0xA4, 0xA6, 0xA8, 0xB0, 0xB2, 0xB3, 0xB5, 0xB7, 0xC1, 0xC2, 0xC5, 0xC6, 0x16].contains op

/-- The quads whose sequencer operands an instruction reads. Where it reads those of the lowest quad alone, a quad whose lanes die of
what it reads leaves the next one the lowest. -/
def seqReaders (s : State) (g op d a b : Nat) (quads : List Nat) : List Nat :=
  let gr := groupAt s g
  let words (k : Nat) : List Nat := seqReads s g op d a b ((Table.row op).getD {}) k
  let restarts (k : Nat) : Bool := gr.idem && (words k).any fun x => (quadAt gr k).errS.contains x && gr.writtenS.contains x
  let dies (k : Nat) : Bool := (words k).any fun x => (quadAt gr k).errS.contains x || (quadAt gr k).poison.contains x
  if readsLowest op then quads.take ((quads.takeWhile fun k => dies k && !(restarts k)).length + 1) else quads

/-- The lanes whose predicate operands an instruction reads: the executing ones; VOTE and VTST read those of every active real lane,
whatever its guard (R131, R132). -/
def predReaders (gr : Group) (op : Nat) (act lanes : List Nat) : List Nat :=
  if op == 0x74 || op == 0x75 then act.filter fun l => !(laneAt gr l).helper else lanes

/-- Judges every operand word that the executing lanes read, and the guards of the active ones (R327, R329, R331). Where some
errored word is of a marked register the group restarts, and only the owners of the others die. -/
def meet (s : State) (g op d a b : Nat) (quads act lanes : List Nat) : Met :=
  let gr := groupAt s g
  let r := (Table.row op).getD {}
  let vr := lanes.flatMap fun l => (vecReads gr op d a b r l).map fun jr => (l, jr.1, jr.2)
  let errs := (vr.filter fun x => (laneAt gr x.2.1).errV.contains x.2.2).map fun x => (x.2.1, gr.writtenV.contains x.2.2)
  let struck (l x : Nat) : Option (Nat × Bool) :=
    if (laneAt gr l).errP.contains x then some (l, gr.writtenP.contains x) else none
  let perr := ((predReaders gr op act lanes).flatMap fun l => (predReads gr op d a b r (l / 4)).filterMap (struck l))
    ++ act.flatMap fun l => (guardRead gr op a r (l / 4)).filterMap (struck l)
  let readers := seqReaders s g op d a b quads
  let serr := readers.flatMap fun k => (seqReads s g op d a b r k).filterMap fun x =>
    if (quadAt gr k).errS.contains x then some (k, gr.writtenS.contains x) else none
  let pois := (vr.filter fun x => (laneAt gr x.2.1).poison.contains x.2.2).map (·.1)
  let spois := readers.filter fun k => (seqReads s g op d a b r k).any fun x => (quadAt gr k).poison.contains x
  let quadDeaths (x : Nat × Bool) : List (Nat × Bool) := (List.range 4).map fun j => (4 * x.1 + j, x.2)
  let owners := errs ++ perr ++ serr.flatMap quadDeaths
  if gr.idem && owners.any (·.2) then .restart ((owners.filter fun x => !x.2).map (·.1))
  else
    let deaths := owners.map (·.1) ++ pois ++ spois.flatMap fun k => lanes.filter (· / 4 == k)
    if deaths.isEmpty then .clean else .dies deaths

/-! ## After the effect -/

/-- Instructions that close the idempotent region (R126). DESIGN CHOICE (log 61): one that takes a decode fault has issued
and closes it too. -/
def closesRegion (op : Nat) : Bool :=
  (0x90 ≤ op && op ≤ 0x9B) || op == 0xC0 || (0xA4 ≤ op && op ≤ 0xA8) || op == 0xA0 || op == 0xA1
    || op == 0xB0 || op == 0xB1 || op == 0xB3 || op == 0xB4 || op == 0xB6 || op == 0xC4 || op == 0x17 || op == 0x0C

/-- A split's run is over: it is ready again (R17, R230). -/
def stopRun (s : State) (g e : Nat) : State :=
  if (splitAt (groupAt s g) e).st == .issuing then
    modGroup s g fun gr => modSplit gr e fun sp =>
      { sp with st := .ready, count := 0, age := s.tick, overdue := false }
  else s

/-- Ends a split's run, after which it may regang (R101). -/
def endRun (s : State) (g e : Nat) : State :=
  if (splitAt (groupAt s g) e).st == .issuing then
    let s := stopRun s g e
    modGroup s g fun gr => regang gr e s.tick
  else s

/-- A fault ends the run of its split; what is left of the split may regang (R17, R101). -/
def trapRun (s : State) (g : Nat) (r : Raise) : State :=
  let s := trapEntry (stopRun s g r.entry) g r
  modGroup s g fun gr => regang gr r.entry s.tick

/-- A split that has issued an access waits for its translations at the next instruction; r are the faults it has already,
to be taken when all are known (R242). -/
def parkWalk (s : State) (g e words : Nat) (w : Waiting) (faults : List (Nat × Nat × DWord)) : State :=
  let s := modGroup s g fun gr => modSplit gr e fun sp =>
    let past := stepPast sp words
    { past with st := .waitBit, count := 0, overdue := false, marked := []
                park := some (.walk [{ w with fpc := sp.pc, next := past.pc, faults := w.faults ++ faults }]) }
  modGroup s g fun gr => regang gr e s.tick

/-- Whether the run ends after the instruction at pc: its BOUND bit, or 24 instructions (R17). -/
def runEnds (sp : Split) : Bool :=
  24 ≤ sp.count + 1 || (sp.lineVa == lineOf sp.pc && hdrBit (hdrBound (lineHeader sp.line)) (slotOf sp.pc))

/-- Dependent and exchange latency in cycles (Tables 5.2 and 7.2); 0 for what has none or a variable one. -/
def latencyOf (op aper : Nat) : Nat :=
  let row (l : List Nat) : Nat := nth 0 l (aper - 1)
  if 0x48 ≤ op && op ≤ 0x4B then row [12, 11, 10, 8, 7, 6, 5]
  else if 0x71 ≤ op && op ≤ 0x75 then row [8, 8, 8, 7, 6, 5, 4]
  else if (0x20 ≤ op && op ≤ 0x3E) || (0x40 ≤ op && op ≤ 0x51) || (0x58 ≤ op && op ≤ 0x64) || op == 0x67 || op == 0x68
      || op == 0x70 || op == 0x15 || op == 0x11 then row [6, 6, 5, 4, 4, 3, 2]
  else 0

/-- The registers that an instruction reads or writes in some quads of a group, by file and number. -/
def namedRegs (gr : Group) (op d a b : Nat) (quads : List Nat) (which : Table.Run → Bool) : List (Table.RFile × Nat) :=
  let r := (Table.row op).getD {}
  quads.flatMap fun k => ((Table.runs op r (modeOf gr k) d a b).filter which).flatMap fun u =>
    (List.range u.count).map fun i => (u.file, u.base + i)

/-- The cycle of its run in which a split can issue an instruction: one after the last, or when its operands are ready. DEDUCED
(log 61): conflicts over columns, which are time, delay no instruction here (R61). -/
def issueCycle (s : State) (g e op d a b : Nat) : Nat :=
  let gr := groupAt s g
  let sp := splitAt gr e
  if sp.ready.isEmpty then sp.cycle + 1
  else
    let reads := namedRegs gr op d a b (bitsOf (quadsOfLanes sp.act)) (·.src)
    (sp.ready.filter fun x => reads.contains (x.1, x.2.1)).foldl (fun c x => max c x.2.2) (sp.cycle + 1)

/-- A split's run after it has issued an instruction: the cycle, and when what it has written can be read. A write to p0 is
discarded (R11), so nothing waits for it. -/
def issuedIn (s : State) (g e op d a b : Nat) (sp : Split) : Split :=
  let c := issueCycle s g e op d a b
  let n := latencyOf op (wgOf s g).aper
  let writes := if n == 0 then []
    else namedRegs (groupAt s g) op d a b (bitsOf (quadsOfLanes (splitAt (groupAt s g) e).act)) fun u => u.dst && !(u.file == .prd && u.base == 0)
  { sp with cycle := c, ready := (distinct writes).map (fun x => (x.1, x.2, c + n)) ++ sp.ready.filter fun x => !(writes.contains (x.1, x.2.1)) }

/-- Puts an effect into force: the region closes, the split moves on or parks, its faulting lanes trap. run
notes in the split the time that the instruction took of its run. -/
def finish (g e op : Nat) (run : Split → Split) (before : Split) (decode : List (Nat × Nat × DWord)) (f : Eff) : State :=
  let words := ((Table.row op).getD {}).words
  let s := f.s
  let pc := before.pc
  let ends := runEnds before
  let s := if closesRegion op && f.flow != .yield then modGroup s g fun gr => { gr with idem := false } else s
  -- marked lanes of an instruction that has parked, or has been completed by another agent, fault later
  let marked := if before.marked.isEmpty then [] else (splitAt (groupAt s g) e).marked
  let parked : Bool := let sp := splitAt (groupAt s g) e; sp.st != .issuing && sp.park.isSome
  let faults := (if f.flow.waits then [] else decode ++ f.faults ++ (if parked then [] else marked)).filter fun x =>
    laneLive (groupAt s g) x.1
  let s := if marked.isEmpty || f.flow.waits || parked then s else
    modGroup s g fun gr => modSplit gr e fun sp => { sp with marked := [] }
  let endNow (s : State) : State := if faults.isEmpty then endRun s g e else stopRun s g e
  let s := match f.flow with
    | .next =>
      let s := modGroup s g fun gr => modSplit gr e fun sp => run (stepPast sp words)
      if ends then endNow s else s
    | .endRun => endNow (modGroup s g fun gr => modSplit gr e fun sp => stepPast sp words)
    | .hold st p =>
      let s := modGroup s g fun gr => modSplit gr e fun sp => { sp with st := st, park := p, count := 0, overdue := false }
      modGroup s g fun gr => regang gr e s.tick
    | .translate w => parkWalk s g e words w (decode ++ f.faults ++ marked)
    | .yield => endNow s
    | .placed true => endNow s
    | .placed false =>
      let s := modGroup s g fun gr => modSplit gr e run
      if ends then endNow s else s
  if faults.isEmpty || !(groupCounts (groupAt s g)) then s
  else
    trapRun s g
      { entry := e, lanes := sortBy (fun x y => x.1 ≤ y.1) faults, ft := f.ft, fpc := pc, resume := f.resume
        next := some (nextAddr before pc words) }

/-- An instruction of opcode op with effect fx: R35, then the operands' errors, then the effect. -/
def issueOp (op : Nat) (d a b : Byte) (l : Word) (fx : Env → Eff) (s : State) : Out :=
  match s.cur with
  | none => .fault .noIssuingSplit
  | some (g, e) =>
    let sp := splitAt (groupAt s g) e
    if !sp.valid then .fault .noIssuingSplit
    else
      let (d, a, b) := (d.toNat, a.toNat, b.toNat)
      let (bad, quads) := checks s g e op d a b sp.park.isSome
      let r := (Table.row op).getD {}
      let lanesOf (s : State) : List Nat × List Nat :=
        let act := (activeLanes s g e).filter fun l => quads.contains (l / 4)
        (act, if Table.takesGuarded op r a then act.filter (guardOn (groupAt s g)) else act)
      let (act, lanes) := lanesOf s
      if 0x20 ≤ op && op ≤ 0x51 && (groupAt s g).residue && !lanes.isEmpty then
        .next (endRun (inlineError (modGroup s g fun gr => { gr with residue := false }) g sp.pc 0) g e)
      else
      let run := issuedIn s g e op d a b
      match (if sp.park.isSome then Met.clean else meet s g op d a b quads act lanes) with
      | .restart dead =>
        let s := if dead.isEmpty then s else killLanes s g dead sp.pc
        .next (endRun (if groupCounts (groupAt s g) then inlineError s g sp.pc 1 else s) g e)
      | .clean =>
        let f := if quads.isEmpty then { s := s }
          else fx { s := s, g := g, e := e, op := op, d := d, a := a, b := b, l := l, pc := sp.pc, quads := quads
                    act := act, lanes := lanes }
        .next (finish g e op run sp bad f)
      | .dies dead =>
        let s := killLanes s g dead sp.pc
        let sp' := splitAt (groupAt s g) e
        if !sp'.valid || sp'.act == 0 || sp'.st == .atJoin || sp'.pc != sp.pc then .next (endRun s g e)
        else
          let (act, lanes) := lanesOf s
          let quads := quads.filter fun k => act.any (· / 4 == k)
          let f := if quads.isEmpty then { s := s }
            else fx { s := s, g := g, e := e, op := op, d := d, a := a, b := b, l := l, pc := sp.pc, quads := quads
                      act := act, lanes := lanes }
          .next (finish g e op run sp bad f)

/-- A one-word instruction. -/
def issue1 (op : Nat) (d a b : Byte) (fx : Env → Eff) (s : State) : Out := issueOp op d a b 0 fx s

end Sys2Proof.Machine
end

