-- ==== Sys2Proof/Machine/Clock.lean ====
section
/-!
DEFINITION. Time passes (R267), and with it what its passing brings: every cut falls exactly where time passes the start of its
window (R307, R316), and the Observatory settles the claims of a timestamp once time has passed it (R354).
-/

namespace Sys2Proof.Machine

/-- Split e has completed its parked instruction: it stands after it, newly ready. -/
def completeParked (s : State) (g e : Nat) : State :=
  modGroup s g fun gr => modSplit gr e (unparked s.tick)

/-- The splits of a partition parked at a SNAP: group, entry, destination, window of receipt. -/
def snapsParked (s : State) (p : Nat) : List (Nat × Nat × Nat × Nat) :=
  (positions (fun (gr : Group) => gr.part == p && !gr.gone) s.groups).flatMap fun g =>
    ((List.range 9).zip (groupAt s g).splits).filterMap fun es =>
      match es.2.park with
      | some (.snap d k) => if es.2.valid then some (g, es.1, d, k) else none
      | _ => none

/-- Writes a sequencer register of every quad that holds some of the lanes. -/
def writeQuads (lanes : LaneMask) (d : Nat) (x : Word) (gr : Group) : Group :=
  each (bitsOf (quadsOfLanes lanes)) (fun k gr => sSet gr k d x) gr

/-- Writes a sequencer register of every quad of a split with an active lane. -/
def snapWrite (gr : Group) (e d : Nat) (x : Word) : Group := writeQuads (splitAt gr e).act d x gr

/-- Some lanes have seen a time: what they read of %time from then on is no less (R267, R316). -/
def seeTime (lanes : LaneMask) (t : Nat) (gr : Group) : Group :=
  each (bitsOf lanes) (fun l gr => modLane gr l fun ln => { ln with time := max ln.time t }) gr

/-- The start of the window at which the cut for the requests of window k falls (R316). -/
def cutTime (k : Nat) : Nat := 8 * (k + 2)

/-- The result of a cut for the SNAPs of window k whose split has met another since (R101): their quads receive it, and the split
waits for them no more. -/
def answerMet (k : Nat) (x : Word) (gr : Group) : Group :=
  let due (w : Waiting) : Bool := match w.snap with | some y => y.2 == k | none => false
  let ws := (gr.splits.filter (·.valid)).flatMap fun sp => (waitingOf sp).filter due
  if ws.isEmpty then gr
  else
    let gr := ws.foldl (fun gr w =>
      seeTime w.lanes (cutTime k) (writeQuads (w.lanes &&& liveMask gr) ((w.snap.getD (0, 0)).1) x gr)) gr
    { gr with splits := gr.splits.map fun sp => match sp.park with
        | some (.walk l) => { sp with park := some (.walk (l.map fun w => if due w then { w with snap := none } else w)) }
        | _ => sp }

/-- The windows whose cut is due: its start lies two windows after them. -/
def cutsDue (s : State) (p : Nat) : List Nat := (partAt s p).cuts.filter fun k => k + 2 ≤ s.now / 8

/-- The cut for the requests of window k (R307, R316): the current generation closes, and every split that waits for it goes
on with its number, and reads no earlier time. -/
def cutOne (p : Nat) (s : State) (k : Nat) : State :=
  let c := (partAt s p).gencur
  let mine := (snapsParked s p).filter fun x => x.2.2.2 == k
  let s := modPart s p fun pt =>
    { pt with gencur := c + 1, gens := pt.gens ++ [{ num := c }], cuts := pt.cuts.filter (· != k) }
  let s := { s with groups := s.groups.map fun gr => if gr.part == p && !gr.gone then answerMet k (BitVec.ofNat 32 c) gr else gr }
  mine.foldl (fun (s : State) (x : Nat × Nat × Nat × Nat) =>
    completeParked (modGroup s x.1 fun gr =>
      seeTime (splitAt gr x.2.1).act (cutTime k) (snapWrite gr x.2.1 x.2.2.1 (BitVec.ofNat 32 c))) x.1 x.2.1) s

/-- Every cut of a partition that is due, oldest first. -/
def cutAll (s : State) (p : Nat) : State := (cutsDue s p).foldl (cutOne p) s

/-- Time passes until t: the claims of this moment are settled, and every cut on the way is made. -/
def advance (s : State) (t : Nat) : State :=
  (List.range 12).foldl cutAll { (if s.now < t then settleClaims s else s) with now := max s.now t }

/-- What a reading of %time by some lanes of a group gives (R267): the core's copy, within 2 ns of the reference, and no less
than any of them has read before. -/
def readTime (s : State) (gr : Group) (lanes : List Nat) : Nat :=
  lanes.foldl (fun t l => max t (laneAt gr l).time) (s.now + Config.skewNs s.tick % 5 - 2)

end Sys2Proof.Machine
end

