-- ==== Sys2Proof/Machine/Modes.lean ====
section
/-!
DEFINITION. NOP, the mode word and the special registers (R24 to R28, R255), TRAP (R254), RETT (R252), IDEM (R126).
-/

namespace Sys2Proof.Machine

/-- Applies a change of the group to the effect's state. -/
def Env.onGroup (v : Env) (f : Group → Group) : Eff := { s := modGroup v.s v.g f }

/-- For each quad of S that holds an active lane (R11). -/
def Env.perQuad (v : Env) (f : Nat → Group → Group) : Eff := v.onGroup (each v.quads f)

/-- For each lane in which the instruction acts (R22). -/
def Env.perLane (v : Env) (f : Nat → Group → Group) : Eff := v.onGroup (each v.lanes f)

/-- NOP (R24). -/
def execNop (d a b : Byte) (s : State) : Out := issue1 0x00 d a b (fun v => { s := v.s }) s

/-- MODE (R25): the whole mode word; a reserved value is code 16 in every active lane. -/
def modeFx (v : Env) : Eff :=
  let m : Word := BitVec.ofNat 32 (v.d * 65536 + v.a * 256 + v.b)
  if Table.reservedMode m then v.allFault 16 v.pc else v.perQuad fun k gr => setMode gr k m
def execMode (d a b : Byte) (s : State) : Out := issue1 0x10 d a b modeFx s

/-- Mode word bits that a MODX mask selects (Table 2.6). -/
def fieldMask (b : Nat) : Word :=
  let f (i lo n : Nat) : Word := if hdrBit b i then BitVec.ofNat 32 ((2 ^ n - 1) * 2 ^ lo) else 0
  f 0 0 5 ||| f 1 5 5 ||| f 2 10 2 ||| f 3 12 1 ||| f 4 13 3 ||| f 5 16 2 ||| f 6 18 3 ||| f 7 21 3

/-- MODX (R26). -/
def modxFx (v : Env) : Eff :=
  let m := fieldMask v.b
  let new (gr : Group) (k : Nat) : Word := (modeOf gr k &&& ~~~m) ||| (sGet gr k v.a &&& m)
  let bad (k : Nat) : Bool := (sGet v.gr k v.a).extractLsb' 24 8 != 0 || Table.reservedMode (new v.gr k)
  if v.quads.any bad then v.allFault 16 v.pc
  else v.perQuad fun k gr =>
    let n := new gr k
    let old := modeOf gr k
    let gr := if v.d == 255 then gr else sSet gr k v.d old
    setMode gr k n
def execModx (d a b : Byte) (s : State) : Out := issue1 0x11 d a b modxFx s

/-- GRD (R27). -/
def grdFx (v : Env) : Eff :=
  v.perQuad fun k gr => setMode gr k ((modeOf gr k &&& ~~~(31 : Word)) ||| BitVec.ofNat 32 (v.b % 32))
def execGrd (d a b : Byte) (s : State) : Out := issue1 0x12 d a b grdFx s

/-- %live (Table 2.5). -/
def liveBits (gr : Group) : DWord := liveMask gr

/-- %split of a quad's split: the entry executing. A special register as 64 bits (Table 2.5); now and cyc are the
timestamp and the cycle count sampled. -/
def special (s : State) (g e l n now cyc : Nat) : DWord :=
  let gr := groupAt s g
  let w := wgOf s g
  let ln := laneAt gr l
  let gg := gangAt s w.gang
  let hg := (gridAt s w.grid).handlerGroup
  let of (x : Nat) : DWord := BitVec.ofNat 64 x
  match n with
  | 0 => of l
  | 1 => of (l % 4)
  | 2 => of (quadAt gr (l / 4)).q
  | 3 => of (widthOf w.aper)
  | 4 => of w.aper
  | 5 => of (tidOf gr l)
  | 6 => zext w.wgid
  | 7 => of w.wgsz
  | 8 => if hg then 0xFFFFFFFF else zext gg.index
  | 9 => of gg.size
  | 10 => of gr.core
  | 11 => of (gr.core / 8)
  | 12 => of now
  | 13 => of cyc
  | 14 => liveBits gr
  | 15 => of e
  | 16 => zext w.late
  | 17 => zext ln.fflags
  | 18 => of (partAt s gr.part).gencur
  | 19 => zext (modeOf gr (l / 4))
  | 20 => zext ln.fault
  | 21 => ln.faddr
  | _ => 0

/-- GETS (R28). Reading %time or %cycle lets a free, never negative amount pass first (R23, R267). -/
def getsFx (v : Env) : Eff :=
  let gr0 := v.gr
  let lanes := if v.a % 2 == 0 then v.lanes else v.act
  let s := if v.b == 12 then advance v.s (v.s.now + Config.elapsedNs v.s.tick % (8 - v.s.now % 8)) else v.s
  let t := readTime s gr0 lanes
  let s := if v.b == 12 then modGroup s v.g (each lanes fun l gr => modLane gr l fun ln => { ln with time := t }) else s
  let s := if v.b == 13 then
      modCore s gr0.part gr0.core fun c => { c with cycle := c.cycle + Config.elapsedCycles v.s.tick } else s
  let cyc := (coreAt s gr0.part gr0.core).cycle
  let val (l : Nat) : DWord := special s v.g v.e l v.b t cyc
  let clear (l : Nat) (gr : Group) : Group :=
    if v.a / 2 % 2 == 1 then modLane gr l fun ln => { ln with fflags := 0 } else gr
  let wide := Table.specialWide v.b
  if v.a % 2 == 0 then
    { s := modGroup s v.g (each v.lanes fun l gr =>
        clear l (if wide then vSetPair gr l v.d (val l) else vSet gr l v.d (loWord (val l)))) }
  else
    { s := modGroup s v.g (each v.quads fun k gr =>
        match (v.act.filter (· / 4 == k)).head? with
        | none => gr
        | some l => clear l (if wide then sSetPair gr k v.d (val l) else sSet gr k v.d (loWord (val l)))) }
def execGets (d a b : Byte) (s : State) : Out := issue1 0x15 d a b getsFx s

/-- SETS (R255). -/
def setsFx (v : Env) : Eff :=
  match v.d with
  | 16 => { s := modWg v.s v.gr.wg fun w => { w with late := sGet v.gr v.q0 v.b } }
  | 17 => v.perLane fun l gr => modLane gr l fun ln => { ln with fflags := vGet gr l v.b &&& 127 }
  | 20 => v.perLane fun l gr => modLane gr l fun ln => { ln with fault := vGet gr l v.b }
  | _ => v.perLane fun l gr => modLane gr l fun ln => { ln with faddr := vPair gr l v.b }
def execSets (d a b : Byte) (s : State) : Out := issue1 0x16 d a b setsFx s

/-- TRAP (R254). -/
def trapFx (v : Env) : Eff := { s := v.s, faults := sameFault v.lanes 18 (BitVec.ofNat 64 v.b) }
def execTrap (d a b : Byte) (s : State) : Out := issue1 0x13 d a b trapFx s

/-- Whether every store and atomic of a group has been performed at its home (R152 at device scope). -/
def groupDrained (s : State) (g : Nat) : Bool :=
  (groupAt s g).storeQ.isEmpty && !(s.flight.any fun w => ofGroup g w && !w.applied)

/-- RETT (R252): it parks until the handler's results have returned and its release is met: its stores, and those that its
lanes have seen, are performed (R152); then it is a
double fault or returns. -/
def rettFx (v : Env) : Eff :=
  if v.e != 8 then v.allFault 5 v.pc
  else if splitAwaits v.gr 8 || !(groupDrained v.s v.g && clusterPerformed v.s v.g) then
    { s := v.s, flow := .hold .waitBit none }
  else if !((markedLanes' v.gr v.sp).isEmpty) then
    let ms := markedLanes' v.gr v.sp
    { s := modGroup v.s v.g (each (ms.map (·.1)) fun l gr => modLane gr l fun ln => { ln with mark := none })
      faults := ms, flow := .placed true }
  else if v.sp.inner != (match v.gr.frame with | some f => f.inner | none => none) then
    { s := doubleFault v.s v.g 8 v.pc v.pc 0x200, flow := .placed true }
  else if (bitsOf v.sp.qmask).any fun k => Table.reservedMode (frameMode v.s v.g k) then
    { s := doubleFault v.s v.g 8 v.pc v.pc 0x201, flow := .placed true }
  else { s := returnHandler v.s v.g (v.d == 1), flow := .placed true }
where
  /-- A mark taken at RETT is a fault of the handler split (R253). -/
  markedLanes' (gr : Group) (sp : Split) : List (Nat × Nat × DWord) :=
    (bitsOf sp.act).filterMap fun l => (laneAt gr l).mark.map fun m => (l, m.1, m.2)
def execRett (d a b : Byte) (s : State) : Out := issue1 0x14 d a b rettFx s

/-- IDEM (R126): one split, no open region, no handler. The one at which a restart has resumed is not the next IDEM of
R328: it keeps the count of restarts. -/
def idemFx (v : Env) : Eff :=
  let gr := v.gr
  if (gr.splits.filter (·.valid)).length != 1 || !gr.regions.isEmpty || gr.frame.isSome then v.allFault 5 v.pc
  else v.onGroup fun gr =>
    { gr with
      restart := v.pc, idem := true, restarts := if gr.resumed && gr.restart == v.pc then gr.restarts else 0, resumed := false
      regionMma := 0, writtenV := [], writtenS := [], writtenP := [] }
def execIdem (d a b : Byte) (s : State) : Out := issue1 0x0F d a b idemFx s

/-- UNASSIGNED_OPCODE (R30): code 5 in every active lane. -/
def execUnassignedOpcode (w : Word) (s : State) : Out :=
  match s.cur with
  | none => .fault .noIssuingSplit
  | some (g, e) =>
    let sp := splitAt (groupAt s g) e
    if !sp.valid then .fault .noIssuingSplit
    else .next (finish g e (opcodeVal w) id sp (sameFault (bitsOf sp.act) 5 sp.pc) { s := s })
where
  /-- The opcode of the word. -/
  opcodeVal (w : Word) : Nat := (w.extractLsb' 24 8).toNat

end Sys2Proof.Machine
end

