-- ==== Sys2Proof/Machine/Aperture.lean ====
section
/-!
DEFINITION. Moving along the curve and register allocation: APT, CLUSTER_MOVE (R91, R108 to R110, R123), RGROW, RSHRK,
REGISTER_GROWTH, RGROW_FAILURE (R93, R124, R125); rails as clusters use them (R337).
-/

namespace Sys2Proof.Machine

/-! ## Status predicates -/

/-- A status known at once of a variable-latency predicate: it still returns as a result (R18). -/
def knownStatus (s : State) (g : Nat) (lanes : LaneMask) (p : Nat) (x : Bool) : State :=
  let (id, s) := fresh s
  modGroup s g fun gr =>
    { gr with reqs := gr.reqs ++ [{ id := id, iid := id, what := .known, file := .prd, lane := (bitsOf lanes).headD 0
                                    lanes := lanes, base := p, regs := 1, data := some [if x then 1 else 0] }] }

/-! ## Rails (R337, Table 22.2) -/

/-- Physical clusters connected to a rail (1 to 4). -/
def onRail (s : State) (r : Nat) : List Nat :=
  positions (fun c => c.connected && c.rail == r) s.clusters

/-- The sum of I(a) over some clusters. -/
def ampsSum (s : State) (cs : List Nat) : Nat := cs.foldl (fun n c => n + ampsOf (clusterAt s c).aper) 0

/-- Whether rail r, at aperture a and not busy, admits physical cluster c of partition p. -/
def railAdmits (s : State) (p c r a : Nat) : Bool :=
  let rl := nth {} s.rails (r - 1)
  let others := (onRail s r).filter (· != c)
  let mine := others.filter fun x => (cfgOf s p).clmap.contains x
  rl.aper == a && !rl.busy && ampsSum s others + ampsOf a ≤ 1875
    && ampsSum s mine + ampsOf a ≤ nth 0 (cfgOf s p).railAmps (r - 1)

/-- A rail of the current plan that supplies aperture a to a cluster. -/
def railFor (s : State) (p c a : Nat) : Option Nat := ([1, 2, 3, 4] : List Nat).find? fun r => railAdmits s p c r a

/-! ## Residency (R93) -/

/-- Workgroups resident on a logical cluster that have not retired. -/
def wgsOnCluster (s : State) (p c : Nat) : List Nat :=
  positions (fun w => w.part == p && w.core / 8 == c && !w.retired) s.wgs

/-- The groups of a core that still hold its resources. -/
def groupsOnCore (s : State) (p core : Nat) : List Nat :=
  positions (fun g => g.part == p && g.core == core && !g.gone) s.groups

/-- A group with a lane left to run. -/
def groupRuns (gr : Group) : Bool := groupCounts gr && !(liveLanes gr).isEmpty

/-- The lowest group slot of a core that no group of a list holds. -/
def freeSlots (s : State) (p core : Nat) (without : List Nat) : List Nat :=
  let used := ((groupsOnCore s p core).filter fun g => !(without.contains g)).map fun g => (groupAt s g).slot
  (List.range 128).filter fun k => !(used.contains k)

/-! ## APT (R108, R109, R123) -/

/-- The groups of a cluster parked at an APT, with entry, predicate and target. -/
def aptParked (s : State) (p c : Nat) : List (Nat × Nat × Nat × Nat) :=
  (positions (fun g => g.part == p && g.core / 8 == c && !g.gone) s.groups).flatMap fun g =>
    ((List.range 8).zip (groupAt s g).splits).filterMap fun es =>
      match es.2.park with
      | some (.apt q t) => if es.2.valid then some (g, es.1, q, t) else none
      | _ => none

/-- Every live lane of a group as a list. -/
def writeStatus (gr : Group) (lanes : List Nat) (p : Nat) (x : Bool) : Group := each lanes (fun l gr => pSet gr l p x) gr

/-- A refused move: every APT parked on the cluster completes false (R109). -/
def refuseMove (s : State) (p c : Nat) : State :=
  (aptParked s p c).foldl (fun s x =>
    completeParked (modGroup s x.1 fun gr => writeStatus gr (liveLanes gr) x.2.2.1 false) x.1 x.2.1) s

/-- A workgroup of a cluster stands halted: no APT of the cluster completes until it resumes (R334, R259). -/
def clusterHalted (s : State) (p c : Nat) : Bool := (wgsOnCluster s p c).any fun w => coreHalted s p (wgAt s w).core

/-- APT (R108, R109, R123). It is tried again while a workgroup of its cluster stands halted. DESIGN CHOICE (log 56): while marked lanes of the split have still to fault at it (R253) a move is refused,
since they are to execute it afterwards. -/
def aptFx (v : Env) : Eff :=
  let gr := v.gr
  let w := wgOf v.s v.g
  let r := (gridAt v.s w.grid).recd
  let p := v.d % 16
  let bad := !r.movable || v.a < r.alow || r.ahigh < v.a || (gr.splits.filter (·.valid)).length != 1
    || gr.frame.isSome || !gr.regions.isEmpty || w.reserv.isSome
  if clusterHalted v.s gr.part (clusterOf v.s v.g) then { s := v.s, flow := .yield }
  else if bad then { s := refuseMove (knownStatus v.s v.g (liveMask gr) p false) gr.part (clusterOf v.s v.g) }
  else if v.a == w.aper then { s := knownStatus v.s v.g (liveMask gr) p true }
  else if !v.sp.marked.isEmpty then { s := refuseMove (knownStatus v.s v.g (liveMask gr) p false) gr.part (clusterOf v.s v.g) }
  else { s := v.s, flow := .hold .atApt (some (.apt p v.a)) }
def execApt (d a b : Byte) (s : State) : Out := issue1 0x0C d a b aptFx s

/-! ## CLUSTER_MOVE (R109, R110) -/

/-- A group all of whose splits are parked other than on a wait bit, one of them beyond a JOIN. -/
def groupParked (gr : Group) : Bool :=
  let sps := gr.splits.filter (·.valid)
  let deep (sp : Split) : Bool := match sp.st with
    | .atBar | .atQueue | .atWaita | .atRgrow | .atApt => true
    | _ => false
  sps.all (fun sp => deep sp || sp.st == .atJoin) && sps.any deep

/-- Some split of a group is parked in STATE 4 to 7. -/
def parkedElsewhere (gr : Group) : Bool :=
  gr.splits.any fun sp => sp.valid && (match sp.st with | .atBar | .atQueue | .atWaita | .atRgrow => true | _ => false)

/-- The groups of a workgroup that have a lane to run. -/
def runningGroups (s : State) (w : Nat) : List Nat := (wgAt s w).groups.filter fun g => groupRuns (groupAt s g)

/-- A workgroup has reached the move to t. -/
def reached (s : State) (t w : Nat) : Bool :=
  (runningGroups s w).all fun g => (groupAt s g).splits.any fun sp =>
    sp.valid && (match sp.park with | some (.apt _ x) => x == t | _ => false)

/-- Groups of a workgroup at a width (R91). -/
def groupsAtWidth (wgsz width : Nat) : Nat := (4 * ((wgsz + 3) / 4) + width - 1) / width

/-- A workgroup's quads in thread order, with the group and quad index that hold each. -/
def wgQuads (s : State) (w : Nat) : List (Nat × Nat × Quad) :=
  (wgAt s w).groups.flatMap fun g =>
    ((List.range (groupAt s g).quads.length).zip (groupAt s g).quads).map fun kq => (g, kq.1, kq.2)

/-- Consecutive pieces of n elements. -/
def chunks {α : Type} (n : Nat) : Nat → List α → List (List α)
  | 0, _ => []
  | _, [] => []
  | k + 1, l => l.take n :: chunks n k (l.drop n)

/-- A quad as it joins a new group: the lanes of a killed group have exited (R332). -/
def movedQuad (gr : Group) (q : Quad) : Quad :=
  if groupCounts gr then q else { q with lanes := q.lanes.map fun ln => { ln with exited := true } }

/-- A group formed by a move: one split, no regions, every APT's predicate true (R110 steps 4 and 5). DESIGN CHOICE
(log 61): where its quads come from groups parked at different APTs, the first of them that is parked gives the PC. -/
def formedGroup (s : State) (w num slot : Nat) (qs : List (Nat × Nat × Quad)) : Group :=
  let wg := wgAt s w
  let parkedApt (gr : Group) : Option Split :=
    gr.splits.find? fun sp => sp.valid && (match sp.park with | some (.apt _ _) => true | _ => false)
  let old := groupAt s (qs.head?.map (·.1) |>.getD 0)
  let statusOf (g : Nat) : Nat :=
    match parkedApt (groupAt s g) with
    | some sp => (match sp.park with | some (.apt q _) => q | _ => 0)
    | none => 0
  let pcOf := ((qs.findSome? fun q => if groupRuns (groupAt s q.1) then parkedApt (groupAt s q.1) else none).map
    fun sp => (unparked s.tick sp).pc).getD 0
  let base : Group :=
    { part := wg.part, wg := w, num := num, core := wg.core, slot := slot, super := old.super
      quads := qs.map fun q => movedQuad (groupAt s q.1) q.2.2, splits := List.replicate 9 {}, residue := qs.any fun q => (groupAt s q.1).residue }
  let live := liveMask base
  let qm := quadsOfLanes live
  let gr := modSplit base 0 fun sp =>
    if qm == 0 then sp else { valid := true, qmask := qm, pc := pcOf, act := live, age := s.tick }
  ((List.range qs.length).zip qs).foldl (fun gr kq =>
    writeStatus gr ((List.range 4).map (4 * kq.1 + ·) |>.filter (laneLive gr)) (statusOf kq.2.1) true) gr

/-- Regroups one workgroup at aperture t; its departed stores follow their lanes, its engine commands the quads whose
records they copied. -/
def regroup (s : State) (t w : Nat) : State :=
  let wg := wgAt s w
  let width := widthOf t
  let qs := wgQuads s w
  let parts := chunks (width / 4) 64 qs
  let slots := freeSlots s wg.part wg.core wg.groups
  let base := s.groups.length
  let made := ((List.range parts.length).zip parts).map fun kp => formedGroup s w kp.1 (nth 0 slots kp.1) kp.2
  let place (g l : Nat) : Nat × Nat :=
    let i := (qs.findIdx? fun x => x.1 == g && x.2.1 == l / 4).getD 0
    (base + i / (width / 4), i % (width / 4) * 4 + l % 4)
  let heirs (g : Nat) : List Nat :=
    if wg.groups.contains g then
      (((List.range qs.length).zip qs).filter (·.2.1 == g)).foldl (fun l x => setAdd (base + x.1 / (width / 4)) l) []
    else [g]
  let follow (c : Command) : Command :=
    { c with group := base + (qs.findIdx? fun x => x.2.2.q == c.quad).getD 0 / (width / 4) }
  let s := { s with
    groups := (s.groups.mapIdx fun g gr => if wg.groups.contains g then { gr with gone := true, splits := [] } else gr)
      ++ made
    flight := s.flight.map fun f =>
      let f := { f with seenBy := f.seenBy.flatMap heirs }
      if wg.groups.contains f.group then
        let (g', l') := place f.group f.lane
        { f with group := g', lane := l', lanes := maskOf 64 ((bitsOf f.lanes).map fun l => (place f.group l).2) }
      else f }
  modWg s w fun x =>
    { x with groups := (List.range made.length).map (base + ·), aper := t, commands := x.commands.map follow }

/-- A grid has run at an aperture (AMAIN, ALO and AHI, Table 14.2). -/
def ranAt (t : Nat) (gd : Grid) : Grid := { gd with ran := setAdd t gd.ran }

/-- CLUSTER_MOVE (R109, R110): the parked APTs of logical cluster c of partition p end in a refusal or in the move, once
their outcome is decided and the cluster's results and store queues are done. DESIGN CHOICE (log 61): a target that differs,
too many groups and the want of a rail refuse the move at once, whether or not every workgroup has reached it. A
reservation that a workgroup holds when all have reached it refuses it (R194). -/
def execClusterMove (p c : Nat) (s : State) : Out :=
  match (if clusterHalted s p c then [] else aptParked s p c) with
  | [] => .next s
  | (_, _, _, t) :: rest =>
    let ws := wgsOnCluster s p c
    let groups := ws.flatMap (runningGroups s)
    let differ := rest.any fun x => x.2.2.2 != t
    let stuck := groups.all (fun g => groupParked (groupAt s g)) && groups.any fun g => parkedElsewhere (groupAt s g)
    let count (core : Nat) : Nat :=
      (ws.filter fun w => (wgAt s w).core == core).foldl (fun n w => n + groupsAtWidth (wgAt s w).wgsz (widthOf t)) 0
    let crowded := (List.range 8).any fun k => 128 < count (8 * c + k)
    let pc := physCluster s p c
    let rail := railFor s p pc t
    if differ || stuck || crowded || rail.isNone then .next (refuseMove s p c)
    else if !(ws.all (reached s t)) || ws.any fun w => (wgAt s w).groups.any fun g => (groupAt s g).stopped then .next s
    else if ws.any fun w => (wgAt s w).reserv.isSome then .next (refuseMove s p c)
    else if ws.any fun w => (wgAt s w).groups.any fun g =>
        !((groupAt s g).reqs.all fun r => isPrefetch r.what) || !(groupAt s g).storeQ.isEmpty then .next s
    else
      let s := modCluster s pc fun x =>
        { x with rail := rail.getD 1, aper := t, connected := true, droop := if x.rail == rail.getD 1 then x.droop else [] }
      .next (ws.foldl (fun s w => modGrid (regroup s t w) (wgAt s w).grid (ranAt t)) s)

/-! ## Register allocation (R93, R124, R125) -/

/-- Words of a register slice in use on a core. -/
def sliceUse (s : State) (p core j : Nat) : Nat :=
  (groupsOnCore s p core).foldl (fun n g =>
    (groupAt s g).quads.foldl (fun n q => if q.slice == j then n + q.alloc else n) n) 0

/-- RGROW (R124). The status is written in the split's active lanes. -/
def rgrowFx (v : Env) : Eff :=
  let alloc := 8 * v.a
  let p := v.d % 16
  if (bitsOf v.sp.qmask).all fun k => alloc ≤ (quadAt v.gr k).alloc then
    { s := knownStatus v.s v.g (maskOf 64 v.act) p true }
  else { s := v.s, flow := .hold .atRgrow (some (.rgrow p alloc)) }
def execRgrow (d a b : Byte) (s : State) : Out := issue1 0x0D d a b rgrowFx s

/-- RSHRK (R125). -/
def rshrkFx (v : Env) : Eff :=
  let alloc := 8 * v.a
  let more := (bitsOf v.sp.qmask).filter fun k => alloc < (quadAt v.gr k).alloc
  if more.any fun k => isPending v.gr .vec alloc ((quadAt v.gr k).alloc - alloc) then v.allFault 4 0
  else v.onGroup (each more fun k gr => modQuad gr k fun q =>
    { q with
      alloc := alloc
      lanes := q.lanes.map fun l =>
        { l with v := l.v.filter (·.1 < alloc), poison := l.poison.filter (· < alloc), errV := l.errV.filter (· < alloc) } })
def execRshrk (d a b : Byte) (s : State) : Out := issue1 0x0E d a b rshrkFx s

/-- Whether a parked RGROW has room in every slice it needs. -/
def growRoom (s : State) (g : Nat) (quads : List Nat) (alloc : Nat) : Bool :=
  let gr := groupAt s g
  quads.all fun k =>
    let q := quadAt gr k
    alloc ≤ q.alloc || sliceUse s gr.part gr.core q.slice + (alloc - q.alloc) ≤ 256

/-- REGISTER_GROWTH (R124): every quad of the parked split grows, all or nothing. -/
def execRegisterGrowth (g e : Nat) (s : State) : Out :=
  let sp := splitAt (groupAt s g) e
  match sp.park with
  | some (.rgrow p alloc) =>
    if sp.valid && sp.st == .atRgrow && !sp.halted && !(coreHalted s (groupAt s g).part (groupAt s g).core)
        && growRoom s g (bitsOf sp.qmask) alloc then
      let s := modGroup s g fun gr =>
        let gr := each (bitsOf sp.qmask) (fun k gr => modQuad gr k fun q => { q with alloc := max q.alloc alloc }) gr
        writeStatus gr (bitsOf sp.act) p true
      .next (completeParked s g e)
    else .next s
  | _ => .next s

/-- RGROW_FAILURE (R124): with every group of the core parked at RGROW, none of which has room to grow, and no split about
to run, the RGROW of the youngest parked group fails. Workgroups are numbered in the order of placement. DESIGN CHOICE
(log 61): of several splits of that group, the one of the lowest entry; a group that has no live lane left or is killed, and only awaits its
workgroup's retirement, does not count among the groups of the core. -/
def execRgrowFailure (p core : Nat) (s : State) : Out :=
  let gs := (groupsOnCore s p core).filter fun g => groupRuns (groupAt s g)
  let atGrow (g : Nat) : Option Nat :=
    (positions (fun (sp : Split) => sp.valid && sp.st == .atRgrow) (groupAt s g).splits).head?
  let awake (g : Nat) : Bool := (groupAt s g).splits.any fun sp =>
    sp.valid && (sp.st == .ready || sp.st == .issuing || sp.st == .waitBit)
  let roomy (g : Nat) : Bool := (groupAt s g).splits.any fun sp => sp.valid && sp.st == .atRgrow &&
    match sp.park with | some (.rgrow _ alloc) => growRoom s g (bitsOf sp.qmask) alloc | _ => false
  if !(gs.all fun g => (atGrow g).isSome) || gs.any awake || gs.any roomy || coreHalted s p core then .next s
  else
    let youngest := gs.foldl (fun (b : Option Nat) g => match b with
      | none => some g
      | some h =>
        let x := groupAt s g
        let y := groupAt s h
        if y.wg < x.wg || (y.wg == x.wg && y.num < x.num) then some g else some h) none
    match youngest with
    | none => .next s
    | some g =>
      match atGrow g with
      | none => .next s
      | some e =>
        let sp := splitAt (groupAt s g) e
        let p := match sp.park with | some (.rgrow q _) => q | _ => 0
        .next (completeParked (modGroup s g fun gr => writeStatus gr (bitsOf sp.act) p false) g e)

end Sys2Proof.Machine
end

