-- ==== Sys2Proof/Machine/Flags.lean ====
section
/-!
DEFINITION. Number formats, rounding, conversion, the condition codes and every flag computation (R38 to R58, R70). A
finite float is exact: an integer times a power of two; each result is rounded once by one function.
-/

namespace Sys2Proof.Machine

/-! ## %fflags (Table 2.5) -/

def flInvalid : Word := 1
def flDivZero : Word := 2
def flOverflow : Word := 4
def flUnderflow : Word := 8
def flInexact : Word := 16
def flSaturated : Word := 32
def flDeadRead : Word := 64

/-! ## Elements (R38, R39) -/

/-- Elements of a TYPE code in one register or pair. -/
def elemCount (t : Nat) : Nat :=
  match t with
  | 2 | 3 | 7 | 8 => 2
  | 4 | 5 | 9 | 10 | 11 => 4
  | _ => 1
/-- Bits of an element. -/
def elemBits (t : Nat) : Nat :=
  match t with
  | 12 | 13 => 64
  | _ => 32 / elemCount t
/-- Element i of a register's or pair's bits. -/
def elemAt (t x i : Nat) : Nat := x / 2 ^ (elemBits t * i) % 2 ^ elemBits t
/-- The bits of a list of elements, element 0 lowest. -/
def packElems (t : Nat) : List Nat → Nat
  | [] => 0
  | x :: r => x % 2 ^ elemBits t + 2 ^ elemBits t * packElems t r

/-- Signed integer types (R59). -/
def isSigned (t : Nat) : Bool := t == 0 || t == 2 || t == 4 || t == 12
/-- The value of an integer element (R39, R59). -/
def intOf (t x : Nat) : Int :=
  let w := elemBits t
  if isSigned t && 2 ^ (w - 1) ≤ x then (x : Int) - 2 ^ w else x
/-- Smallest and largest value of an integer type. -/
def intMin (t : Nat) : Int := if isSigned t then -(2 ^ (elemBits t - 1) : Int) else 0
def intMax (t : Nat) : Int := if isSigned t then 2 ^ (elemBits t - 1) - 1 else 2 ^ elemBits t - 1
/-- The low bits of an integer. -/
def wrapInt (t : Nat) (x : Int) : Nat := (x % (2 ^ elemBits t : Int)).toNat
/-- fit(x) of R39: wraps, or clamps with the saturated flag. -/
def fitInt (t : Nat) (sat : Bool) (x : Int) : Nat × Word :=
  if sat && x < intMin t then (wrapInt t (intMin t), flSaturated)
  else if sat && intMax t < x then (wrapInt t (intMax t), flSaturated)
  else (wrapInt t x, 0)

/-! ## Floating formats (Table 4.1) -/

/-- A floating format. -/
structure Fmt where
  ebits : Nat
  fbits : Nat
  bias : Int
  e4m3 : Bool := false
deriving DecidableEq, Repr

def fp32 : Fmt := ⟨8, 23, 127, false⟩
def fp16 : Fmt := ⟨5, 10, 15, false⟩
def bf16 : Fmt := ⟨8, 7, 127, false⟩
def e4m3 : Fmt := ⟨4, 3, 7, true⟩
def e5m2 : Fmt := ⟨5, 2, 15, false⟩

/-- The format of a floating TYPE code. -/
def fmtOf (t : Nat) : Option Fmt :=
  match t with
  | 6 => some fp32
  | 7 => some fp16
  | 8 => some bf16
  | 9 => some e4m3
  | 10 => some e5m2
  | _ => none

/-- A floating value: NaN, an infinity, or sign, integer and exponent of two, exact. -/
inductive FVal where
  | nan
  | inf (neg : Bool)
  | fin (neg : Bool) (m : Nat) (e : Int)
deriving DecidableEq, Repr

/-- Bit patterns of the specials. -/
def signBit (f : Fmt) (neg : Bool) : Nat := if neg then 2 ^ (f.ebits + f.fbits) else 0
def nanCode (f : Fmt) : Nat := if f.e4m3 then 0x7F else (2 ^ f.ebits - 1) * 2 ^ f.fbits + 2 ^ (f.fbits - 1)
def infCode (f : Fmt) (neg : Bool) : Nat := signBit f neg + (2 ^ f.ebits - 1) * 2 ^ f.fbits
def largestCode (f : Fmt) (neg : Bool) : Nat :=
  signBit f neg + (if f.e4m3 then 0x7E else (2 ^ f.ebits - 1) * 2 ^ f.fbits - 1)
/-- Exponent of the last place of subnormals. -/
def minExp (f : Fmt) : Int := 1 - f.bias - f.fbits

/-- Reads a code (R40, R41). -/
def decodeF (f : Fmt) (x : Nat) : FVal :=
  let neg := x / 2 ^ (f.ebits + f.fbits) % 2 == 1
  let ex := x / 2 ^ f.fbits % 2 ^ f.ebits
  let fr := x % 2 ^ f.fbits
  if f.e4m3 then
    if ex == 15 && fr == 7 then .nan
    else if ex == 0 then .fin neg fr (minExp f) else .fin neg (fr + 8) (ex - 1 + minExp f)
  else if ex == 2 ^ f.ebits - 1 then (if fr == 0 then .inf neg else .nan)
  else if ex == 0 then .fin neg fr (minExp f)
  else .fin neg (fr + 2 ^ f.fbits) (ex - 1 + minExp f)

/-- m / 2^s rounded in a mode (R47), and whether bits were lost. -/
def roundShift (rnd : Nat) (neg : Bool) (m s : Nat) : Nat × Bool :=
  let q := m / 2 ^ s
  let r := m % 2 ^ s
  let up := match rnd with
    | 0 => 2 * r > 2 ^ s || (2 * r == 2 ^ s && q % 2 == 1)
    | 2 => r != 0 && !neg
    | 3 => r != 0 && neg
    | _ => false
  (if up then q + 1 else q, r != 0)

/-- m × 2^e as a multiple of 2^q, rounded. -/
def roundTo (rnd : Nat) (neg : Bool) (m : Nat) (e q : Int) : Nat × Bool :=
  if q ≤ e then (m * 2 ^ (e - q).toNat, false) else roundShift rnd neg m (q - e).toNat

/-- Delivers an overflow (Table 4.3, R47). satn: SAT acts, in a narrowing conversion. -/
def overflowed (f : Fmt) (rnd : Nat) (satn neg : Bool) : Nat × Word :=
  let fl := flOverflow ||| flInexact
  if satn then (largestCode f neg, fl ||| flSaturated)
  else
    let toInf := match rnd with | 0 => true | 1 => false | 2 => !neg | _ => neg
    if !toInf then (largestCode f neg, fl)
    else if f.e4m3 then (nanCode f, fl ||| flInvalid)
    else (infCode f neg, fl)

/-- Rounds a finite non-zero value to a format (R47, R48): its code and flags. -/
def roundF (f : Fmt) (rnd : Nat) (satn neg : Bool) (m : Nat) (e : Int) : Nat × Word :=
  let top : Int := (Nat.log2 m : Int) + e
  let qu := top - f.fbits                       -- last place with an unbounded exponent
  let q := if qu < minExp f then minExp f else qu
  let (n, inexact) := roundTo rnd neg m e q
  let (nu, _) := roundTo rnd neg m e qu
  -- carry to the next binade leaves n = 2^(fbits+1), which the code below still spells right
  let code := n + (q - minExp f).toNat * 2 ^ f.fbits
  if largestCode f false < code then overflowed f rnd satn neg
  else
    let tiny := decide ((nu : Int) * 2 ^ (qu - (minExp f) + 200 + f.fbits).toNat < 2 ^ (200 + 2 * f.fbits))
      || qu + 200 < minExp f
    (signBit f neg + code,
      (if inexact then flInexact else 0) ||| (if inexact && tiny then flUnderflow else 0))

/-- An exact result before rounding. -/
inductive Exact where
  | nan (invalid : Bool)
  | inf (neg : Bool)
  | zero (neg : Bool)
  | val (neg : Bool) (m : Nat) (e : Int)
deriving DecidableEq, Repr

/-- Rounds and delivers an exact result. -/
def deliver (f : Fmt) (rnd : Nat) (x : Exact) : Nat × Word :=
  match x with
  | .nan inv => (nanCode f, if inv then flInvalid else 0)
  | .inf neg => (infCode f neg, 0)
  | .zero neg => (signBit f neg, 0)
  | .val neg m e => roundF f rnd false neg m e

/-- The signed integer of a value at exponent e0 (e0 at most its own). -/
def atExp (neg : Bool) (m : Nat) (e e0 : Int) : Int :=
  let x : Int := m * 2 ^ (e - e0).toNat
  if neg then -x else x

/-- The exact value of a signed integer times 2^e; an exact zero takes sign z. -/
def exactInt (x : Int) (e : Int) (z : Bool) : Exact :=
  if x == 0 then .zero z else .val (x < 0) x.natAbs e

/-- Exact product; the sign of a zero is the exclusive or (R75). none where 0 × infinity. -/
def mulF (a b : FVal) : Option FVal :=
  match a, b with
  | .nan, _ | _, .nan => some .nan
  | .inf s, .inf t => some (.inf (s != t))
  | .inf s, .fin t m _ | .fin t m _, .inf s => if m == 0 then none else some (.inf (s != t))
  | .fin s m e, .fin t n k => some (.fin (s != t) (m * n) (e + k))

def negF (a : FVal) : FVal :=
  match a with
  | .nan => .nan
  | .inf s => .inf (!s)
  | .fin s m e => .fin (!s) m e

/-- Exact sum with the zero-sign rule of R75. -/
def addF (rnd : Nat) (a b : FVal) : Exact :=
  match a, b with
  | .nan, _ | _, .nan => .nan false
  | .inf s, .inf t => if s == t then .inf s else .nan true
  | .inf s, _ | _, .inf s => .inf s
  | .fin s m e, .fin t n k =>
    if m == 0 && n == 0 then .zero (if s == t then s else rnd == 3)
    else
      let e0 := min e k
      exactInt (atExp s m e e0 + atExp t n k e0) e0 (rnd == 3)

/-- A product on its own as an exact result. -/
def exactOf (a : FVal) : Exact :=
  match a with
  | .nan => .nan false
  | .inf s => .inf s
  | .fin s m e => if m == 0 then .zero s else .val s m e

/-- a × b + d, or d − a × b, exact (R76). A NaN operand gives NaN without invalid (R42). -/
def fmaF (rnd : Nat) (neg : Bool) (a b d : FVal) : Exact :=
  match mulF a b with
  | none => .nan (d != .nan)
  | some p => addF rnd (if neg then negF p else p) d

/-- a < b for numbers that are not NaN. -/
def ltF (a b : FVal) : Bool :=
  match a, b with
  | .nan, _ | _, .nan => false
  | .inf s, .inf t => s && !t
  | .inf s, _ => s
  | _, .inf t => !t
  | .fin s m e, .fin t n k => let e0 := min e k; atExp s m e e0 < atExp t n k e0
def eqF (a b : FVal) : Bool := a != .nan && b != .nan && !ltF a b && !ltF b a
def absF (a : FVal) : FVal :=
  match a with
  | .nan => .nan
  | .inf _ => .inf false
  | .fin _ m e => .fin false m e
def isNegF (a : FVal) : Bool := match a with | .nan => false | .inf s => s | .fin s _ _ => s

/-- FMIN and FMAX (R75): codes of the operands in, code out. -/
def minMaxF (f : Fmt) (max : Bool) (x y : Nat) : Nat :=
  let a := decodeF f x
  let b := decodeF f y
  if a == .nan || b == .nan then nanCode f
  else
    let less := ltF a b || (eqF a b && isNegF a && !isNegF b)
    if less != max then x else y

/-! ## PP8 (R44 to R46) -/

/-- A term in 64ths. -/
def ppTerm (t : Nat) : Int :=
  if t % 8 == 7 then 0 else
    let v : Int := 2 ^ (6 - t % 8)
    if t / 8 % 2 == 1 then -v else v
/-- The value of a code in 64ths. -/
def ppVal (x : Nat) : Int := ppTerm (x / 16 % 16) + ppTerm (x % 16)

/-- The canonical code of a positive value in 64ths with sign, where it is a PP8 value (R45). -/
def ppCode (neg : Bool) (v : Nat) : Option Nat :=
  let s := if neg then 1 else 0
  if v == 0 then some 0x77
  else
    match (List.range 7).find? fun a => 2 ^ (6 - a) == v with
    | some a => some (s * 128 + a * 16 + 7)
    | none =>
      let pairs := (List.range 7).flatMap fun a => ((List.range 7).filter (a < ·)).map fun b => (a, b)
      match pairs.find? fun ab => 2 ^ (6 - ab.1) + 2 ^ (6 - ab.2) == v with
      | some ab => some (s * 128 + ab.1 * 16 + s * 8 + ab.2)
      | none =>
        match pairs.find? fun ab => 2 ^ (6 - ab.1) - 2 ^ (6 - ab.2) == v with
        | some ab => some (s * 128 + ab.1 * 16 + (1 - s) * 8 + ab.2)
        | none => none

/-- Conversion to PP8 (R46): nearest value, ties to the smaller magnitude; RND and SAT have no effect. -/
def toPP8 (x : FVal) : Nat × Word :=
  match x with
  | .nan => (0x77, flInvalid)
  | .inf s => (if s then 0x89 else 0x01, flOverflow ||| flInexact)
  | .fin s m e =>
    if m == 0 then (0x77, 0)
    else
      let num := if 0 ≤ e then m * 64 * 2 ^ e.toNat else m * 64
      let den := if 0 ≤ e then 1 else 2 ^ (-e).toNat
      if 96 * den < num then (if s then 0x89 else 0x01, flOverflow ||| flInexact)
      else
        let dist (v : Nat) : Nat := (num - v * den) + (v * den - num)
        let best := (List.range 97).foldl (fun b v =>
          if (ppCode s v).isSome && dist v < dist b then v else b) 0
        ((ppCode s best).getD 0x77,
          if dist best == 0 then 0 else if best == 0 then flUnderflow ||| flInexact else flInexact)

/-! ## Conversions (R47, R48) -/

/-- A floating or PP8 element as a value. -/
def floatOf (t x : Nat) : FVal :=
  match fmtOf t with
  | some f => decodeF f x
  | none => let v := ppVal x; .fin (v < 0) v.natAbs (-6)

def isFloatType (t : Nat) : Bool := 6 ≤ t && t ≤ 11
/-- Significand bits with the implicit bit. -/
def sigBits (t : Nat) : Nat := match fmtOf t with | some f => f.fbits + 1 | none => 7
/-- Whether a conversion between TYPE codes is narrowing (R47). -/
def narrows (t d : Nat) : Bool :=
  match fmtOf d with
  | none => false
  | some fd =>
    if t == 11 then false
    else match fmtOf t with
      | some ft => fd.ebits < ft.ebits || fd.fbits < ft.fbits
      | none => sigBits d < elemBits t - (if isSigned t then 1 else 0)

/-- A float rounded to an integer: the integer and whether a fraction was lost. -/
def roundInt (rnd : Nat) (neg : Bool) (m : Nat) (e : Int) : Int × Bool :=
  let (n, ix) := roundTo rnd neg m e 0
  (if neg then -(n : Int) else n, ix)

/-- convert (R46 to R48): an element of TYPE t to TYPE d. -/
def convert (t d rnd : Nat) (sat : Bool) (x : Nat) : Nat × Word :=
  let src : FVal := if isFloatType t then floatOf t x else let v := intOf t x; .fin (v < 0) v.natAbs 0
  if d == 11 then toPP8 src
  else match fmtOf d with
    | some fd =>
      let satn := sat && narrows t d
      match src with
      | .nan => (nanCode fd, 0)
      | .inf s =>
        if satn then (largestCode fd s, flOverflow ||| flInexact ||| flSaturated)
        else if fd.e4m3 then (nanCode fd, flOverflow ||| flInexact ||| flInvalid)
        else (infCode fd s, 0)
      | .fin s m e => if m == 0 then (signBit fd s, 0) else roundF fd rnd satn s m e
    | none =>
      if isFloatType t then
        match src with
        | .nan => (0, flInvalid)
        | .inf s => (wrapInt d (if s then intMin d else intMax d), flInvalid)
        | .fin s m e =>
          let (n, ix) := roundInt rnd s m e
          let fx : Word := if ix then flInexact else 0
          if n < intMin d then (wrapInt d (intMin d), flInvalid ||| fx)
          else if intMax d < n then (wrapInt d (intMax d), flInvalid ||| fx)
          else (wrapInt d n, fx)
      else fitInt d sat (intOf t x)

/-- The canonical +0 of a type (R81). -/
def zeroOf (d : Nat) : Nat := if d == 11 then 0x77 else 0

/-! ## Seeds (R53, R54) -/

/-- Square root, rounded down, of a number below 2^26. -/
def isqrt13 (n : Nat) : Nat :=
  (List.range 13).foldl (fun r i => let b := r + 2 ^ (12 - i); if b * b ≤ n then b else r) 0

/-- RSQ (R53). -/
def rsqF (x : Nat) : Nat × Word :=
  match decodeF fp32 x with
  | .nan => (nanCode fp32, 0)
  | .inf s => if s then (nanCode fp32, flInvalid) else (0, 0)
  | .fin s m e =>
    if m == 0 then (infCode fp32 s, flDivZero)
    else if s then (nanCode fp32, flInvalid)
    else
      let k := Nat.log2 m
      let ex : Int := k + e
      let p := (ex % 2).toNat
      let fr := if k ≤ 7 then (m - 2 ^ k) * 2 ^ (7 - k) else (m - 2 ^ k) / 2 ^ (k - 7)
      let dn := 2 ^ p * (257 + 2 * fr)
      let r := isqrt13 (2 ^ 32 / dn)
      let n := if (4 * r * r + 4 * r + 1) * dn < 2 ^ 34 then r + 1 else r
      ((roundF fp32 0 false false n (-12 - (ex - p) / 2)).1, 0)

/-- RCP (R54); a result beyond FP32 is an infinity with the overflow flag. -/
def rcpF (x : Nat) : Nat × Word :=
  match decodeF fp32 x with
  | .nan => (nanCode fp32, 0)
  | .inf s => (signBit fp32 s, 0)
  | .fin s m e =>
    if m == 0 then (infCode fp32 s, flDivZero)
    else
      let k := Nat.log2 m
      let ex : Int := k + e
      let fr := if k ≤ 7 then (m - 2 ^ k) * 2 ^ (7 - k) else (m - 2 ^ k) / 2 ^ (k - 7)
      let dn := 257 + 2 * fr
      let n := (2 * (2 ^ 20 / dn) + (if 2 * (2 ^ 20 % dn) > dn then 2 else 0)) / 2
      let r := roundF fp32 0 false s n (-12 - ex)
      (r.1, r.2 &&& flOverflow)

/-! ## EX2 and LG2 (R55) -/

/-- T[j] × 2^24. -/
def ex2Table : List Nat :=
  [16777216, 16959908, 17144589, 17331282, 17520007, 17710787, 17903645, 18098603, 18295684, 18494911, 18696307, 18899897, 19105703, 19313750, 19524063, 19736666]
  ++ [19951585, 20168843, 20388467, 20610483, 20834917, 21061794, 21291142, 21522987, 21757357, 21994279, 22233781, 22475891, 22720638, 22968049, 23218155, 23470984]
  ++ [23726566, 23984932, 24246111, 24510133, 24777031, 25046835, 25319578, 25595290, 25874004, 26155754, 26440571, 26728490, 27019544, 27313768, 27611195, 27911861]
  ++ [28215802, 28523052, 28833647, 29147625, 29465022, 29785875, 30110222, 30438101, 30769550, 31104608, 31443315, 31785710, 32131834, 32481727, 32835430, 33192984]
  ++ [33554432]
/-- L[j] × 2^24. -/
def lg2Table : List Nat :=
  [0, 375270, 744810, 1108793, 1467383, 1820738, 2169009, 2512340, 2850868, 3184728, 3514044, 3838941, 4159533, 4475935, 4788255, 5096595]
  ++ [5401057, 5701737, 5998727, 6292118, 6581994, 6868440, 7151536, 7431359, 7707984, 7981483, 8251926, 8519380, 8783912, 9045584, 9304457, 9560591]
  ++ [9814042, 10064867, 10313120, 10558852, 10802114, 11042956, 11281425, 11517568, 11751428, 11983051, 12212479, 12439752, 12664911, 12887994, 13109041, 13328087]
  ++ [13545168, 13760320, 13973576, 14184969, 14394532, 14602297, 14808293, 15012551, 15215099, 15415967, 15615181, 15812769, 16008758, 16203172, 16396036, 16587377]
  ++ [16777216]

/-- EX2: 2^i × (T[j] + u × (T[j+1] − T[j])), rounded to nearest even. -/
def ex2F (x : Nat) : Nat × Word :=
  match decodeF fp32 x with
  | .nan => (nanCode fp32, 0)
  | .inf s => if s then (0, 0) else (infCode fp32 false, 0)
  | .fin s m e =>
    if m == 0 then (0x3F800000, 0)
    else if 8 ≤ (Nat.log2 m : Int) + e then
      -- at least 2^8 in magnitude: beyond the range on either side
      if s then (0, flUnderflow ||| flInexact) else (infCode fp32 false, flOverflow ||| flInexact)
    else
      -- x as an integer times 2^-w with w at least 6
      let w : Nat := if e ≤ -6 then (-e).toNat else 6
      let v : Int := atExp s m e (-(w : Int))
      let i := v / (2 ^ w : Int)
      let f := (v % (2 ^ w : Int)).toNat
      let j := f / 2 ^ (w - 6)
      let u := f % 2 ^ (w - 6)
      let t0 := nth 0 ex2Table j
      let t1 := nth 0 ex2Table (j + 1)
      roundF fp32 0 false false (t0 * 2 ^ (w - 6) + u * (t1 - t0)) (i - 24 - (w - 6 : Nat))

/-- LG2: E + L[j] + u × (L[j+1] − L[j]), rounded to nearest even. -/
def lg2F (x : Nat) : Nat × Word :=
  match decodeF fp32 x with
  | .nan => (nanCode fp32, 0)
  | .inf s => if s then (nanCode fp32, flInvalid) else (infCode fp32 false, 0)
  | .fin s m e =>
    if m == 0 then (infCode fp32 true, flDivZero)
    else if s then (nanCode fp32, flInvalid)
    else
      let k := Nat.log2 m
      let ex : Int := k + e
      let fr := (m - 2 ^ k) * 2 ^ 30 / 2 ^ k      -- (M - 1) in units of 2^-30, exact: k is at most 23
      let j := fr / 2 ^ 24
      let u := fr % 2 ^ 24
      let l0 := nth 0 lg2Table j
      let l1 := nth 0 lg2Table (j + 1)
      let sum : Int := ex * 2 ^ 48 + ((l0 * 2 ^ 24 + u * (l1 - l0) : Nat) : Int)
      deliver fp32 0 (exactInt sum (-48) false)

/-! ## Compensated pairs and fixed-point reduction (R56 to R58) -/

/-- RNE32(a + b) on codes. -/
def addRne (a b : Nat) : Nat := (deliver fp32 0 (addF 0 (decodeF fp32 a) (decodeF fp32 b))).1
def subRne (a b : Nat) : Nat := (deliver fp32 0 (addF 0 (decodeF fp32 a) (negF (decodeF fp32 b)))).1
/-- Infinite or NaN. -/
def notFinite (x : Nat) : Bool := match decodeF fp32 x with | .fin .. => false | _ => true

/-- TwoSum (R56). -/
def twoSum (a b : Nat) : Nat × Nat :=
  let s := addRne a b
  let bb := subRne s a
  (s, addRne (subRne a (subRne s bb)) (subRne b bb))

/-- REDC's update of (s, e) by v (R57). -/
def redcF (s e v : Nat) : Nat × Nat :=
  let (s1, t) := twoSum s v
  if notFinite s1 then (s1, 0)
  else
    let e1 := addRne e t
    let (s2, e2) := twoSum s1 e1
    if notFinite s2 then (s2, 0) else (s2, e2)

/-- The conversion of REDX (R58). -/
def redxConv (v : Nat) (k : Int) : Int :=
  let lo : Int := -(2 ^ 63)
  let hi : Int := 2 ^ 63 - 1
  match decodeF fp32 v with
  | .nan => 0
  | .inf s => if s then lo else hi
  | .fin s m e => let x := (roundInt 0 s m (e + k)).1; if x < lo then lo else if hi < x then hi else x

/-- Clamps to i64. -/
def clamp64 (x : Int) : Int :=
  if x < -(2 ^ 63) then -(2 ^ 63) else if 2 ^ 63 - 1 < x then 2 ^ 63 - 1 else x

/-! ## The window sum (R50, R51) -/

/-- A term of a window sum: a NaN or 0 × infinity, an infinity, or exact. -/
def termF (a b sa sb : FVal) : Option FVal :=
  (mulF a b).bind fun p => (mulF p sa).bind fun q => mulF q sb

/-- Some factor is zero and another infinite, whatever the others are. -/
def zeroTimesInf (l : List FVal) : Bool :=
  l.any (fun x => match x with | .fin _ m _ => m == 0 | _ => false)
    && l.any (fun x => match x with | .inf _ => true | _ => false)

/-- Window of R50: the terms' factors (a, b, sa, sb), the incoming value, RND. DESIGN CHOICE (log 61): a term that is cut sets
inexact alone, so that a tiny result which is inexact only by the cut does not set underflow. -/
def windowF (terms : List (FVal × FVal × FVal × FVal)) (c : FVal) (rnd : Nat) : Nat × Word :=
  let factors := terms.map fun t => [t.1, t.2.1, t.2.2.1, t.2.2.2]
  if c == .nan || factors.any (·.any (· == .nan)) then (nanCode fp32, 0)
  else if factors.any zeroTimesInf then (nanCode fp32, flInvalid)
  else
    let ts := (terms.map fun t => (termF t.1 t.2.1 t.2.2.1 t.2.2.2).getD .nan) ++ [c]
    let infs := ts.filterMap fun x => match x with | .inf s => some s | _ => none
    if infs.contains true && infs.contains false then (nanCode fp32, flInvalid)
    else match infs with
      | s :: _ => (infCode fp32 s, 0)
      | [] =>
        let fs := ts.filterMap fun x => match x with | .fin s m e => some (s, m, e) | _ => none
        let nz := fs.filter fun x => x.2.1 != 0
        match nz with
        | [] => (signBit fp32 (fs.all (·.1) || rnd == 3), 0)
        | x0 :: _ =>
          let top := nz.foldl (fun (b : Int) x => max b ((Nat.log2 x.2.1 : Int) + x.2.2)) ((Nat.log2 x0.2.1 : Int) + x0.2.2)
          let q := top - 64
          let cut := nz.map fun x =>
            let (n, lost) := roundTo 1 x.1 x.2.1 x.2.2 q
            (if x.1 then -(n : Int) else (n : Int), lost)
          let sum := cut.foldl (fun a x => a + x.1) 0
          let lost := cut.any (·.2)
          let r := deliver fp32 rnd (exactInt sum q (rnd == 3))
          (r.1, r.2 ||| (if lost then flInexact else 0))

/-! ## Condition codes (Table 5.4) -/

/-- An integer condition on operands of W bits; signed: the signedness of lt to ge. -/
def condInt (cc : Nat) (signed : Bool) (w a b : Nat) : Bool :=
  let sv (x : Nat) : Int := if signed && 2 ^ (w - 1) ≤ x then (x : Int) - 2 ^ w else x
  let bit := a / 2 ^ (b % 64 % w) % 2 == 1
  match cc with
  | 0 => a == b
  | 1 => a != b
  | 2 => sv a < sv b
  | 3 => sv a ≤ sv b
  | 4 => sv b < sv a
  | 5 => sv b ≤ sv a
  | 6 => a < b
  | 7 => a ≤ b
  | 8 => b < a
  | 9 => b ≤ a
  | 10 => a &&& b != 0
  | 11 => a &&& b == 0
  | 12 => false
  | 13 => true
  | 14 => bit
  | _ => !bit

/-- An FP32 condition. -/
def condF (cc : Nat) (x y : Nat) : Bool :=
  let a := decodeF fp32 x
  let b := decodeF fp32 y
  let un := a == .nan || b == .nan
  match cc with
  | 0 => eqF a b
  | 1 => !eqF a b
  | 2 => ltF a b
  | 3 => ltF a b || eqF a b
  | 4 => ltF b a
  | 5 => ltF b a || eqF a b
  | 6 => un || ltF a b
  | 7 => un || ltF a b || eqF a b
  | 8 => un || ltF b a
  | 9 => un || ltF b a || eqF a b
  | 10 => !un
  | 11 => un
  | 12 => false
  | 13 => true
  | 14 => !un && ltF (absF a) (absF b)
  | _ => !un && !ltF (absF a) (absF b)

/-- Compares two sequencer words (R70, R85). -/
def condSeq (cc : Nat) (a b : Word) : Bool := condInt cc true 32 a.toNat b.toNat

/-- The class mask of an element (R79). -/
def classOf (f : Fmt) (x : Nat) : Nat :=
  match decodeF f x with
  | .nan => 256
  | .inf s => if s then 1 else 128
  | .fin s m _ =>
    if m == 0 then (if s then 8 else 16)
    else if m < 2 ^ f.fbits then (if s then 4 else 32)
    else (if s then 2 else 64)

/-- FRND (R78): an integral value in the element's own format. -/
def frndF (f : Fmt) (rnd x : Nat) : Nat × Word :=
  match decodeF f x with
  | .nan => (nanCode f, 0)
  | .inf _ => (x, 0)
  | .fin s m e =>
    if m == 0 || 0 ≤ e then (x, 0)
    else
      let (n, ix) := roundTo rnd s m e 0
      if !ix then (x, 0)
      else if n == 0 then (signBit f s, flInexact)
      else ((roundF f rnd false s n 0).1, flInexact)

end Sys2Proof.Machine
end

