-- ==== Sys2Proof/Machine/Packets.lean ====
section
/-!
DEFINITION. Stores, atomics and loads on their way (R145, R148, R154 to R160, R265 to R272, R282, R283): departure from a
store queue, performance at the home, capture of a load's value, the return of a result, acknowledgement.
-/

namespace Sys2Proof.Machine

/-! ## Waking (R18, R242) -/

/-- Whether a split in STATE 2 has got what it waits for. -/
def awaited (gr : Group) (e : Nat) : Bool :=
  let sp := splitAt gr e
  match sp.park with
  | none => !(splitAwaits gr e)
  | some (.walk ws) => ws.all fun w => w.asks.isEmpty && w.fpc == 0
  | some .entries =>
    gr.reqs.all fun r => !(match r.what with | .entry _ => true | _ => false) || (r.lanes &&& sp.act) == 0 || r.back
  | _ => false

/-- Splits in STATE 2 whose wait is over become ready. -/
def wake (s : State) (g : Nat) : State :=
  modGroup s g fun gr => each (List.range 9) (fun e gr =>
    let sp := splitAt gr e
    if sp.valid && sp.st == .waitBit && awaited gr e then modSplit gr e fun sp => { sp with st := .ready, age := s.tick }
    else gr) gr

/-! ## Performing at the home -/

def isPool (l : Loc) : Bool := match l.space with | .pool _ => true | _ => false

/-- Whether two spans share a byte. -/
def overlaps (a : Loc) (n : Nat) (b : Loc) (m : Nat) : Bool :=
  a.space == b.space && decide (a.addr < b.addr + m) && decide (b.addr < a.addr + n)

/-- The new value of an atomic of opcode op (Table 10.4, R57), none where it stores nothing; m is the old value. -/
def atomicNew (op ty size m x y : Nat) : Option Nat :=
  let w := 2 ^ (8 * size)
  let sv (v : Nat) : Int := if (ty == 0 || ty == 12) && w / 2 ≤ v then (v : Int) - w else v
  match op with
  | 0x90 => some ((m + x) % w)
  | 0x91 => some (if sv m ≤ sv x then m else x)
  | 0x92 => some (if sv m ≤ sv x then x else m)
  | 0x93 => some (m &&& x)
  | 0x94 => some (m ||| x)
  | 0x95 => some (m ^^^ x)
  | 0x96 => some x
  | 0x97 => if m == x then some y else none
  | 0x98 => some (addRne m x)
  | _ => let r := redcF (m % 2 ^ 32) (m / 2 ^ 32) x; some (r.1 + 2 ^ 32 * r.2)

/-- The value that an operation leaves at its location; none where it stores nothing. -/
def memOpNew (op : MemOp) (size old : Nat) : Option Nat :=
  match op with
  | .store bs => some (leNat bs)
  | .atomic o ty x y => atomicNew o ty size old x y
  | .cprd => some 0
  | .redx x =>
    let v : Int := if 2 ^ 63 ≤ old then (old : Int) - 2 ^ 64 else old
    some (clamp64 (v + x) % 2 ^ 64).toNat

def isStore (op : MemOp) : Bool := match op with | .store _ => true | _ => false

/-- The words of a value of some size. -/
def wordsOf (size v : Nat) : List Word :=
  (List.range ((size + 3) / 4)).map fun i => BitVec.ofNat 32 (v / 2 ^ (32 * i))

/-- Fills an outstanding request of a group. -/
def fillReq (s : State) (g id : Nat) (f : Req → Req) : State :=
  modGroup s g fun gr => { gr with reqs := gr.reqs.map fun r => if r.id == id then f r else r }

/-- Makes the frame that a write needs (R310); none while it must wait. -/
def claimFrame (s : State) (w : Write) : Option State :=
  match w.loc.space with
  | .hbm | .cap =>
    (supersede (partAt s w.part) w.waited w.gen (frameKind w.loc) (w.loc.addr / 65536) (w.loc.addr % 65536 / 32)).map fun pt =>
      modPart s w.part fun _ => pt
  | _ => some s

/-- Puts a new value in place, in the closed images too that the write is part of (R308), with what a store does to poison
(R331); a replica set's primary will forward it (R167). -/
def putValue (s : State) (w : Write) (n : Nat) : State :=
  let bytes := leBytes w.size n
  let s := storeSeen s w.part w.loc w.size
  let s :=
    if isStore w.op then storePoison (homeWrite s w.part w.gen w.loc bytes) w.part w.gen w.loc w.size w.bad
    else homeUpdate s w.part w.gen w.loc w.size (memOpNew w.op w.size)
  match w.loc.space with
  | .peer k =>
    if 4096 ≤ k then
      modPart s w.part fun pt => { pt with replFwd := pt.replFwd ++ [(k - 4096 - w.part * 256, w.loc.addr, bytes)] }
    else s
  | _ => s

/-- Gives the request that awaits a write's old value its words. -/
def answerWrite (s : State) (w : Write) (old : Nat) : State :=
  match w.ret with
  | some id => fillReq s w.group id fun r => { r with data := some (wordsOf w.size old), stage := .served }
  | none => s

/-- Whether a write tagged with a closed generation may act on a closed image (R308). -/
def isLate (s : State) (w : Write) : Bool := hasSlice w.loc && (partAt s w.part).gens.any fun x => decide (w.gen ≤ x.num)

/-- Marks lanes for a fault at the next waiting instruction (R253, R271); a mark already there stays. -/
def markLanes (gr : Group) (lanes : LaneMask) (code : Nat) (va : DWord) : Group :=
  each ((bitsOf lanes).filter (laneLive gr)) (fun l gr =>
    modLane gr l fun ln => { ln with mark := ln.mark.or (some (code, va)) }) gr

/-- An engine command stops on a fault: code, foreign frame met, address (R190). -/
def failCommand (s : State) (wi id code : Nat) (frame : Option Nat) (addr : Nat) : State :=
  modWg s wi fun x => { x with commands := x.commands.map fun c =>
    if c.id == id then { c with failed := c.failed.or (some (code, frame, addr)), ops := [], buf := [] } else c }

/-- A write whose slice finds that its partition no longer owns the frame is not performed (R298): an entry of kind 6 names
it; its lane is marked for code 1, its engine stops. DEDUCED (log 68): a lane's fault is taken as a late reply's is. -/
def refuseWrite (s : State) (w : Write) : State :=
  let frame := w.loc.addr / 65536
  let s :=
    if ofUnit w then unitForeign w.part w.loc.addr frame s
    else if w.group < s.groups.length then ringForeign s w.group w.va frame
    else unitForeign w.part w.va.toNat frame s
  match w.piece with
  | some id => failCommand s w.wg id 1 none w.va.toNat
  | none =>
    let s := match w.ret with | some id => fillReq s w.group id fun r => { r with mark := 1 } | none => s
    answerWrite (if w.ret.isSome then s else modGroup s w.group fun gr => markLanes gr w.lanes 1 w.va) w 0

/-- The lane of an atomic whose read finds poison dies, and with it those whose atomics have been merged into it (R283, R331). -/
def killReaders (s : State) (w : Write) : State :=
  (w :: s.flight.filter fun x => x.into == some w.id).foldl (fun s x => killLanes s x.group [x.lane] x.va) s

/-- Performs a write at its home (R148, R157, R298, R310, R331); none while it must wait for a frame. An atomic whose read
finds poison is not performed, and its lane dies; its reply still returns. DESIGN CHOICE (log 61): an access of 16 or 32 bytes,
whose 8-byte parts R151 lets be performed apart, is performed whole. -/
def performWrite (s : State) (w : Write) : Option State :=
  if !(ownsLoc s w.part w.loc) then some (refuseWrite s w)
  else if !isStore w.op && spanPoisoned s w.loc w.size then
    some (answerWrite (killReaders s w) w 0)
  else
    let old := leNat (homeBytes s w.loc w.size)
    let s' := match memOpNew w.op w.size old with
      | some n => (claimFrame s w).map fun s => putValue s w n
      | none => if isLate s w then (claimFrame s w).map fun s => putValue s w old else some s
    s'.map fun s => answerWrite s w old

/-- Marks a write in flight as performed, and with it those that have been merged into it (R283): their replies or
acknowledgements return (R270). -/
def markApplied (s : State) (id : Nat) : State :=
  { s with flight := s.flight.map fun w =>
      if w.id == id || w.into == some id then { w with applied := true, stage := .served } else w }

/-- Writes of one sector request (R141): one instruction's, or one engine operation's, in one 32-byte sector. -/
def sameRequest (w x : Write) : Bool :=
  x.id == w.id || (x.piece == w.piece && x.iid == w.iid && x.loc.space == w.loc.space && x.loc.addr / 32 == w.loc.addr / 32)

/-- The writes that are performed with one: the atomics of its instruction at its location, in lane order, with no other
access between them (R159); the parts of a sector that an engine writes (R163). -/
def performedWith (s : State) (w : Write) : List Write :=
  if w.piece.isSome then s.flight.filter fun x => x.id == w.id || (!x.applied && sameRequest w x)
  else if isStore w.op then [w]
  else s.flight.filter fun x => x.id == w.id || (!x.applied && x.into.isNone && !isStore x.op && sameRequest w x && x.loc == w.loc)

/-- After an acquire or an atomic on a page of a replica set, later relaxed loads of its lane await what the primary has
applied (R167). -/
def noteReplica (s : State) (g lane : Nat) (loc : Loc) : State :=
  match loc.space with
  | .peer k =>
    if 4096 ≤ k then
      let p := (groupAt s g).part
      let set := k - 4096 - p * 256
      modGroup s g fun gr => modLane gr lane fun ln =>
        { ln with replSeen := cellPut 0 set (primaryCount (partAt s p) set) ln.replSeen }
    else s
  | _ => s
where
  /-- The primary's stores that precede now. -/
  primaryCount (pt : Partition) (set : Nat) : Nat :=
    cellGet 0 set pt.replDone + (pt.replFwd.filter (·.1 == set)).length

/-! ## Contention (R148) -/

/-- The 128-byte line of a location. -/
def lineAt (l : Loc) : Loc := { l with addr := l.addr / 128 * 128 }

/-- The entry of a line in a cluster's predictor changes, one being made where there is none; the oldest of 256 goes. -/
def predict (line : Loc) (f : Contended → Contended) (x : Cluster) : Cluster :=
  let old := (x.predictor.find? (·.line == line)).getD { line := line }
  { x with predictor := (f old :: x.predictor.filter (·.line != line)).take 256 }

/-- Cluster c loads from a line, stores to it or performs an atomic on it: the home slice recalls the line from another cluster
that owns it, whose count rises. -/
def recalled (s : State) (c : Nat) (l : Loc) : State :=
  match s.owners.find? fun o => o.1 == lineAt l && o.2 != c with
  | none => s
  | some o =>
    { s with
      owners := s.owners.filter (·.1 != lineAt l)
      clusters := upd s.clusters o.2 (predict (lineAt l) fun e => { e with count := min 3 (e.count + 1), localRuns := 0 }) }

/-- Where an atomic of cluster c is performed: at home for a line that its predictor counts 2 or more, and locally otherwise, with
the line in its ownership; the count falls with every sixteenth local one. It is performed alike in both places. -/
def placeAtomic (s : State) (c : Nat) (l : Loc) : State :=
  let s := recalled s c l
  match (nth {} s.clusters c).predictor.find? (·.line == lineAt l) with
  | none => { s with owners := (lineAt l, c) :: s.owners.filter (·.1 != lineAt l) }
  | some e =>
    if 2 ≤ e.count then s
    else { s with
      owners := (lineAt l, c) :: s.owners.filter (·.1 != lineAt l)
      clusters := upd s.clusters c (predict (lineAt l) fun e =>
        if e.localRuns == 15 then { e with count := e.count - 1, localRuns := 0 } else { e with localRuns := e.localRuns + 1 }) }

/-- What a performed write does to the lines that clusters own. -/
def noteLine (s : State) (w : Write) : State :=
  if !(hasSlice w.loc) then s
  else
    let c := physCluster s w.part (w.core / 8)
    -- a peer's lane belongs to no cluster of this device
    if isStore w.op || 96 ≤ w.core then recalled s c w.loc else placeAtomic s c w.loc

/-- What follows from a write that has just been performed: an atomic's read is noted, and with an acquire all that the
cluster's queues have let go. -/
def notePerformed (s : State) (w : Write) : State :=
  let s := noteLine (markApplied s w.id) w
  if isStore w.op then s
  else
    let s := noteReplica s w.group w.lane w.loc
    if w.acq then noteAcquire s w.group else s

/-- Performs a list of writes, in order; none where one must wait. -/
def performList : List Write → State → Option State
  | [], s => some s
  | w :: r, s => (performWrite s w).bind fun s => performList r (notePerformed s w)

/-- Performs a write with those that go with it. -/
def performUnit (s : State) (w : Write) : Option State :=
  (performList (performedWith s w) s).map fun s => wake s w.group

/-! ## Loads take their values (R154, R155, R167, R317) -/

/-- The writes of a group that are not performed yet. -/
def unperformed (s : State) (g : Nat) : List Write :=
  (groupAt s g).storeQ ++ s.flight.filter fun w => ofGroup g w && !w.applied

/-- Whether an earlier write of a lane keeps a load from taking its value: an atomic that acquires, that lies on its bytes,
or that goes to the primary of the replica set it reads (R167); a host write before a host read (R168). -/
def heldBy (p : Nat) (w : Write) (loc : Loc) (size : Nat) : Bool :=
  let primary := match loc.space with | .replica k => .peer (primaryOf p (k - p * 256)) | x => x
  (!isStore w.op && (w.acq || overlaps w.loc w.size loc size || (primary != loc.space && w.loc.space == primary)))
    || (w.loc.space == .host && loc.space == .host)

/-- MMAs of a group whose B tile is still to be read (R203). -/
def tilesDue (s : State) (g : Nat) : List Mma :=
  s.cores.flatMap fun c => c.mmas.filter fun m => m.group == g && m.shape.tile.isNone

/-- Chase walks of a group that are under way (R192). -/
def walksDue (s : State) (g : Nat) : List Req := (groupAt s g).reqs.filter fun r => r.what == .walk && r.data.isNone

/-- A lane has read n bytes at a location: departed stores of other lanes that it met hold back the later ones of their cluster, since
every observer is to agree on one order (R157). -/
def noteRead (s : State) (g lane : Nat) (loc : Loc) (n : Nat) : State :=
  let gr := groupAt s g
  { s with flight := s.flight.map fun w =>
      if !w.applied && w.piece.isNone && w.part == gr.part && w.core / 8 == gr.core / 8 && !(w.group == g && w.lane == lane)
          && overlaps w.loc w.size loc n then { w with read := true } else w }

/-- Whether a location is a replicated page's at its primary, which counts what an acquire has seen when it has applied it (R167). -/
def atPrimary (l : Loc) : Bool := match l.space with | .peer k => decide (4096 ≤ k) | _ => false

/-- Whether some bytes are those of a store that only its cluster sees so far: an acquire that reaches further waits, since every
observer is to agree with the order in which the homes apply stores (R157). -/
def seenHereOnly (s : State) (g : Nat) (loc : Loc) (size : Nat) : Bool :=
  let gr := groupAt s g
  (departed s gr.part (gr.core / 8)).any fun w => overlaps w.loc w.size loc size

/-- Whether a load may not take its value yet: an earlier write of its lane keeps it, a walk of its lane or a tile that its lane
reads before it is still to be read (R155, R192, R203), its generation is not sealed (R317), its replica is
behind (R167), or it is an acquire beyond its cluster, or at a primary, of what only its cluster has seen. -/
def loadHeld (s : State) (g : Nat) (r : Req) (loc : Loc) (size : Nat) : Bool :=
  let p := (groupAt s g).part
  (unperformed s g).any (fun w => w.id < r.id && w.lane == r.lane && heldBy p w loc size)
  || (walksDue s g).any (fun q => q.lane == r.lane && q.id < r.id)
  || ((r.wide || (r.acq && atPrimary loc)) && (match r.what with | .mem _ _ _ | .watch _ => true | _ => false) && seenHereOnly s g loc size)
  || (tilesDue s g).any (fun m => m.reader == r.lane && m.id < r.id)
  || (match r.what with | .view _ _ _ gen => !(isSealed s p gen) | _ => false)
  || (match loc.space with
      | .replica k =>
        let set := k - p * 256
        let seen := cellGet 0 set (laneAt (groupAt s g) r.lane).replSeen
        cellGet 0 set (partAt s p).replDone < seen
      | _ => false)

/-- The register images of loaded bytes (R169). -/
def loadWords (bytes : List Byte) (size : Nat) (sx : Bool) : List Word :=
  let v := leNat bytes
  if size < 4 then
    [if sx && 2 ^ (8 * size - 1) ≤ v then BitVec.ofInt 32 ((v : Int) - 2 ^ (8 * size)) else BitVec.ofNat 32 v]
  else wordsOf size v

/-- The value of a load taken now, whole (log 61; R151 has parts of 8 bytes). Poison counts in the bytes that no queued store
of the lane or departed one of its cluster gives (R331). DESIGN CHOICE (log 61): a generation that is held no more when its
image would be read (R317, R319) gives zeros, and marks the lane for code 1 at its next waiting instruction. -/
def loadNow (s : State) (g : Nat) (r : Req) : Req :=
  match r.what with
  | .mem loc size sx =>
    { r with data := some (loadWords (laneBytes s g r.lane r.id loc size) size sx), poisoned := lanePoisoned s g r.lane r.id loc size }
  | .entry loc =>
    { r with data := some (loadWords (laneBytes s g r.lane r.id loc 4) 4 false), poisoned := lanePoisoned s g r.lane r.id loc 4 }
  | .watch loc => { r with data := some (loadWords (laneBytes s g r.lane r.id loc 4) 4 false) }
  | .view loc size sx gen =>
    let p := (groupAt s g).part
    let kind := if loc.space == .hbm then 0 else 1
    if (partAt s p).gens.any (·.num == gen) then
      { r with data := some (loadWords ((List.range size).map fun i => viewGen s p gen kind (loc.addr + i)) size sx)
               poisoned := viewPoisoned s p gen kind loc.addr size }
    else { r with data := some (List.replicate ((size + 3) / 4) 0), mark := 1 }
  | _ => r

/-- The location and size that a load reads. -/
def loadSpan (r : Req) : Option (Loc × Nat) :=
  match r.what with
  | .mem loc size _ | .view loc size _ _ => some (loc, size)
  | .entry loc | .watch loc => some (loc, 4)
  | _ => none

/-- One load takes its value, where it may: whole, in one moment (log 61). -/
def captureOne (s : State) (g : Nat) (r : Req) : Option State :=
  match loadSpan r with
  | none => some s
  | some (loc, size) =>
    if r.data.isSome then some s
    else if loadHeld s g r loc size then none
    else if !(ownsLoc s (groupAt s g).part loc) then
      -- R298: its frame has been taken away since it was translated
      some (fillReq (ringForeign s g r.va (loc.addr / 65536)) g r.id fun r =>
        { r with data := some (List.replicate r.regs 0), mark := 1, stage := .served })
    else
      let s := fillReq (recalled s (physCluster s (groupAt s g).part ((groupAt s g).core / 8)) loc) g r.id fun _ => loadNow s g r
      some (noteLoad s g r loc size)
where
  /-- What a load has seen (R152, R167); a read of a closed generation synchronises with nothing (R317), and a WAITA's only where it
  meets its condition (R181). -/
  noteLoad (s : State) (g : Nat) (r : Req) (loc : Loc) (size : Nat) : State :=
    match r.what with
    | .view _ _ _ _ => s
    | .watch _ => noteRead s g r.lane loc size
    | _ =>
      let s := noteRead (noteSeen s g fun w => w.group != g && overlaps w.loc w.size loc size) g r.lane loc size
      if r.acq then noteAcquire (noteReplica s g r.lane loc) g else s

/-- The loads of a list take their values in order; none where one may not yet. -/
def captureList (g : Nat) : List Req → State → Option State
  | [], s => some s
  | r :: rest, s => (captureOne s g r).bind (captureList g rest)

/-- The loads of a lane up to a serial number take their values, in program order. -/
def captureLane (s : State) (g lane upTo : Nat) : Option State :=
  captureList g ((groupAt s g).reqs.filter fun r => r.lane == lane && r.id ≤ upTo) s

/-- Every outstanding load of a group takes its value; none while one may not, while a walk is under way, or while a B
tile is still to be read. -/
def captureAll (s : State) (g : Nat) : Option State :=
  if (tilesDue s g).isEmpty && (walksDue s g).isEmpty then captureList g (groupAt s g).reqs s else none

/-! ## Departure from the store queue (R155, R307) -/

/-- Where a request or write starts on its way. -/
def startStage (s : State) (p : Nat) (l : Loc) : Stage :=
  match l.space with
  | .hbm | .cap => .cluster
  | .peer _ => .link
  | .replica n => if setRole s p (n - p * 256) == 1 then .served else .link
  | _ => .served

/-- Whether the head of a store queue may leave it now: what its ordering wants before it has been performed; before a host write the
walks that may read host pages (R168). -/
def mayDepart (s : State) (g : Nat) (w : Write) : Bool :=
  let pool := match w.loc.space with | .pool _ => true | _ => false
  !((tilesDue s g).any fun m => m.reader == w.lane && m.id < w.id && (pool || w.rel != 0)) &&
  !((w.rel != 0 || w.loc.space == .host) && (walksDue s g).any fun r => r.lane == w.lane && r.id < w.id) &&
  !(atomicsFlying s g fun x => x.iid != w.iid) &&
  !(w.rel == 2 && s.flight.any fun x => !x.applied && (ofGroup g x || x.seenBy.contains g))
where
  /-- An atomic of the group is on its way: nothing behind it in the queue is seen before it is performed (R155). -/
  atomicsFlying (s : State) (g : Nat) (which : Write → Bool) : Bool :=
    s.flight.any fun x => ofGroup g x && !x.applied && !isStore x.op && which x

/-- The loads that must have taken their values before a write leaves: all that a release orders, those that acquire,
those on its bytes (R154), before a host write the host reads (R168); and those of the lane before them, since its loads are
performed in program order (R155). -/
def loadsBefore (s : State) (g : Nat) (w : Write) : List Req :=
  let mine := (groupAt s g).reqs.filter fun r => r.lane == w.lane && r.id < w.id
  let must (r : Req) : Bool := w.rel != 0 || r.acq || (match loadSpan r with
    | some (l, n) => (w.loc.space == .host && l.space == .host) || overlaps l n w.loc w.size
    | none => false)
  mine.filter fun r => mine.any fun x => r.id ≤ x.id && must x

/-- The loads that must have taken their values before any of a list of writes leaves, each once. -/
def loadsBeforeAll (s : State) (g : Nat) (ws : List Write) : List Req :=
  (groupAt s g).reqs.filter fun r => ws.any fun w => (loadsBefore s g w).any (·.id == r.id)

/-- Whether nothing that a group has stored is still in its queue or, an atomic, on its way: what it has done so far is
seen by its cluster (R155, R161). -/
def groupSeen (s : State) (g : Nat) : Bool :=
  (groupAt s g).storeQ.isEmpty && !(s.flight.any fun x => ofGroup g x && !x.applied && !isStore x.op)

/-- Whether an earlier instruction of the group, or one whose writes keep lane order, still has a write to be translated: the
queue is first in, first out (R155), though the writes of one instruction leave as their translations arrive (R242). -/
def storesWalking (s : State) (g : Nat) (w : Write) : Bool :=
  (groupAt s g).splits.any fun sp => sp.valid && (waitingOf sp).any fun x => x.asks.any fun a =>
    a.write.isSome && (a.iid < w.iid || (a.iid == w.iid && w.ordered && (!isStore w.op || a.lane < w.lane)))

/-- The writes of a queue that leave with its head: what shares its sector request (R141). An SST's keep their order (R87). -/
def leavesWith (w : Write) (rest : List Write) : List Write :=
  if isPool w.loc then [] else if w.ordered && isStore w.op then rest.takeWhile (sameRequest w) else rest.filter (sameRequest w)

/-- STORE_QUEUE_DEPARTURE: the head of a group's store queue leaves it with what shares its sector request (R141), its
stores seen by their cluster at that moment (R155), with the tag of the current generation (R307). A pool store or host
access is performed at once; the others travel. -/
def execStoreQueueDeparture (g : Nat) (s : State) : Out :=
  let gr := groupAt s g
  match gr.storeQ with
  | [] => .next s
  | w :: rest =>
    let unit := w :: (leavesWith w rest).takeWhile fun x => !(storesWalking s g x)
    if !(unit.all (mayDepart s g)) || storesWalking s g w || gr.gone || (partAt s gr.part).frozen then .next s
    else match captureList g (loadsBeforeAll s g unit) s with
      | none => .next s
      | some s =>
        let s := modGroup s g fun gr => { gr with storeQ := gr.storeQ.filter fun x => !(unit.any (·.id == x.id)) }
        let pt := partAt s w.part
        let sent := unit.map fun x => { x with gen := pt.gencur, inc := pt.inc, stage := startStage s w.part x.loc }
        match w.loc.space with
        | .pool _ => .next (wake ((performWrite s w).getD s) g)
        | .host => .next (wake ((performList sent { s with flight := s.flight ++ sent }).getD s) g)
        | _ => .next (wake { s with flight := s.flight ++ sent } g)

/-! ## Slices apply (R157, R266) -/

/-- The source number of a unit: unique, and otherwise any numbering (R265). Unit 2 × core is a core, the next its copy
engine. -/
def sourceNo (unit : Nat) : Nat := Config.sourceNumber unit * 4096 + unit

/-- The sequence number of a write in flight: those of a source stand there in the order in which they left its queues (R157). -/
def sentNo (s : State) (id : Nat) : Nat := (s.flight.findIdx? (·.id == id)).getD s.flight.length

/-- The order of slot windows, sources and sequence numbers (R157). -/
def writeKey (s : State) (w : Write) : Nat × Nat × Nat :=
  (match w.stage with | .slice k => k | _ => 0, sourceNo (coreKey s w.part w.core * 2 + (if w.piece.isSome then 1 else 0))
    , sentNo s w.id)

def keyLt (a b : Nat × Nat × Nat) : Bool :=
  a.1 < b.1 || (a.1 == b.1 && (a.2.1 < b.2.1 || (a.2.1 == b.2.1 && a.2.2 < b.2.2)))

/-- Whether a write is at a slice and waits to be applied; one merged into another waits with it (R283). -/
def atSlice (w : Write) : Bool := !w.applied && w.into.isNone && (match w.stage with | .slice _ => true | _ => false)

/-- Whether a write of the same group that left its queue earlier is not performed yet, of an SST one of its own too (R87). -/
def behindOwn (s : State) (w : Write) : Bool :=
  w.piece.isNone && (s.flight.takeWhile (·.id != w.id)).any fun x =>
    ofGroup w.group x && !x.applied && (x.iid != w.iid || (w.ordered && isStore w.op))

/-- A write of this generation that must wait at its slice for a frame does so from now on; policy 1 has dropped what it could (R313). -/
def stalledWrite (w : Write) (s : State) : State :=
  let pt := partAt s w.part
  if !(hasSlice w.loc) || !(w.waited || w.gen == pt.gencur) then s
  else
    let s := { s with flight := s.flight.map fun x => if x.id == w.id then { x with waited := true } else x }
    modPart s w.part fun pt => dropRoom pt true w.gen (frameKind w.loc) (w.loc.addr / 65536)

/-- The first write of the total order that can be applied now: a write that waits for a frame holds back the later
writes of its group, that left after it, and those on its bytes, and no other (R313). -/
def firstWrite (slice : Nat) (s : State) : List Write → List Write → Option Write × State
  | _, [] => (none, s)
  | held, w :: rest =>
    let behind := held.any (fun h => (h.piece.isNone && ofGroup h.group w && sentNo s h.id < sentNo s w.id)
        || overlaps h.loc h.size w.loc w.size)
      || behindOwn s w
    match (if behind then none else performUnit s w) with
    | some s' => (some w, s')
    | none =>
      firstWrite slice (if behind || sliceOf w.loc != slice then s else stalledWrite w s) (w :: held) rest

/-- What a slice has written in its cache it brings to its stack's controller, unless the sector already awaits that there (R301).
DEDUCED (log 71): the write is performed at the slice when it is applied, and its sector then asks for admission as a miss does. -/
def broughtOut (w : Write) (s : State) : State :=
  let o : WriteOut :=
    { id := s.nextId, part := w.part, core := w.core, wg := w.wg, slack := w.slack, slice := sliceOf w.loc, cap := w.loc.space == .cap }
  { s with
    nextId := s.nextId + 1
    hbmStacks := upd s.hbmStacks (sliceOf w.loc / 4) fun k =>
      { k with outs := if Config.sliceHit s.tick then k.outs else k.outs ++ [o] } }

/-- SLICE_APPLY: the home slice of the next write of the total store order applies it. -/
def execSliceApply (slice : Nat) (s : State) : Out :=
  let order := sortBy (fun a b => !(keyLt (writeKey s b) (writeKey s a))) (s.flight.filter atSlice)
  match firstWrite slice s [] order with
  | (none, s') => .next s'
  | (some w, s') =>
    if sliceOf w.loc != slice then .next s
    else
      let s' := broughtOut w s'
      if ofUnit w then .next { s' with flight := s'.flight.filter fun x => x.id != w.id } else .next s'

/-! ## Replies (R18, R271, R245) -/

/-- Counts a late reply (R271) for a workgroup and its grid. -/
def countLate (s : State) (w : Nat) : State :=
  if s.wgs.length ≤ w then s else
  let s := modWg s w fun x => { x with late := satInc x.late }
  modGrid s (wgAt s w).grid fun gd => { gd with late := min (gd.late + 1) (2 ^ 64 - 1) }

/-- Whether the reply to a packet that is served now, and takes a free time to its requester, comes late: packet n of this
tick (R268, R270, R271). -/
def lateReply (s : State) (k : Slack) (n : Nat) : Bool := remaining k (s.now + Config.replyNs s.tick n) == 0

/-- A walk of a cluster reads its entries as loads do: their lines are recalled from the other clusters (R148, R240). -/
def recallWalk (s : State) (v : Viewer) (p core : Nat) (va : DWord) : State :=
  (walkEntries s v p va).foldl (fun s l => recalled s (physCluster s p (core / 8)) l) s

/-- A page is translated for an access of workgroup w with slack k, unless a cache holds it: the walk's result, a fault too, may
come late, and the cluster's cache holds its leaf (R241, R270, R271). -/
def walkedFor (v : Viewer) (p core w : Nat) (k : Slack) (s : State) (page : Nat) : State :=
  if 2 ^ 36 ≤ page || (cached s p core page).isSome then s
  else
    let va := BitVec.ofNat 64 (page * 65536)
    let s' := recallWalk (if lateReply s k (64 + page) then countLate s w else s) v p core va
    match walk s v p va with
    | .leaf l => ctlbFill s' p core page l
    | _ => s'

/-- Requests that travel as packets, or whose reply does (R269). -/
def isPacket (f : Fetched) : Bool := match f with | .known | .genq _ => false | _ => true

/-- Writes a result's words to the registers that await it; a dead or exited lane's is discarded. -/
def deliver' (gr : Group) (r : Req) (data : List Word) : Group :=
  let lanes := (bitsOf r.lanes).filter (laneLive gr)
  match r.file with
  | .vec =>
    each lanes (fun l gr =>
      let gr := vSetRun gr l r.base data
      if r.poisoned then modLane gr l fun ln =>
        { ln with poison := (List.range data.length).foldl (fun p i => setAdd (r.base + i) p) ln.poison }
      else gr) gr
  | .seq =>
    each (bitsOf (quadsOfLanes (maskOf 64 lanes))) (fun k gr =>
      let gr := ((List.range data.length).zip data).foldl (fun gr iw => sSet gr k (r.base + iw.1) iw.2) gr
      if r.poisoned then modQuad gr k fun q =>
        { q with poison := (List.range data.length).foldl (fun p i => setAdd (r.base + i) p) q.poison }
      else gr) gr
  | .prd => each lanes (fun l gr => pSet gr l r.base (data.headD 0 != 0)) gr

/-- The state code of a generation (Table 20.2). -/
def genState (pt : Partition) (g : Nat) : Nat :=
  if g == 0xFFFFFFFF || g == pt.gencur then 1
  else if g == 0 || pt.gencur < g then 0
  else match pt.gens.find? (·.num == g) with
    | some x => x.code
    | none => if g + 64 < pt.gencur then 7 else ((pt.pastGens.find? (·.1 == g)).map (·.2)).getD 7

/-- HBM backings that a generation reaches and that the sluice has still to move. -/
def genWork (pt : Partition) (g : Nat) : Nat :=
  (pt.backings.filter fun b => b.kind == 0 && !b.moved && b.lo ≤ g && g ≤ b.hi).length

/-- GENQ's two words (R318). -/
def genqWords (s : State) (p g : Nat) : List Word :=
  let pt := partAt s p
  let c := genState pt g
  let shut := c == 1 || ((c == 2 || c == 3 || c == 4) && isSealed s p g)
  [BitVec.ofNat 32 (c + (if shut then 16 else 0)),
    if c == 2 || c == 3 then BitVec.ofNat 32 (min (genWork pt g) 0xFFFFFFFF) else 0]

/-- Whether the reply of a request comes late now (R268, R271). -/
def lateNow (s : State) (r : Req) : Bool := isPacket r.what && remaining r.slack s.now == 0

/-- A JT entry load: its own JT takes its fault (R253). -/
def isEntry (f : Fetched) : Bool := match f with | .entry _ => true | _ => false

/-- What a request's result does as it reaches its requester: marks, the registers. late: its reply was late. -/
def receive (s : State) (g : Nat) (late : Bool) (r : Req) : State :=
  let awaitsLane := !isPrefetch r.what
  let s := modGroup s g fun gr =>
    let code := if r.mark % 256 != 0 then r.mark % 256 else if late && r.slack.report then 12 else 0
    let gr := if code != 0 && awaitsLane && !(isEntry r.what) then markLanes gr r.lanes code r.va else gr
    match r.what with
    | .entry _ =>
      { gr with reqs := if (r.lanes &&& liveMask gr) == 0 then gr.reqs.filter (·.id != r.id)
          else gr.reqs.map fun x => if x.id == r.id then { x with back := true, mark := code } else x }
    | .prefetch _ => { gr with reqs := gr.reqs.filter (·.id != r.id) }
    | _ => { deliver' gr r (r.data.getD []) with reqs := gr.reqs.filter (·.id != r.id) }
  let s := { s with flight := s.flight.filter fun w => !(w.ret == some r.id && w.applied) }
  -- a region may have waited for a result of its quad's sequencer (R99)
  wake (if r.file == .seq then settled s g else s) g

/-- The reply to a sector request: it counts at most once as late, and every one of its results is received. -/
def receiveAll (s : State) (g : Nat) (rs : List Req) : State :=
  let late := rs.any (lateNow s)
  rs.foldl (fun s r => receive s g late r) (if late then countLate s (groupAt s g).wg else s)

/-- Whether a request is part of a sector request, which several lanes of its instruction may share (R141). -/
def sharesSector (f : Fetched) : Bool :=
  match f with | .mem _ _ _ | .view _ _ _ _ | .entry _ | .atomic | .prefetch _ | .queued => true | _ => false

/-- Whether two requests are one sector request: of one instruction and slack, at one 32-byte sector (R141). -/
def sameSector (r x : Req) : Bool :=
  x.id == r.id ||
    (sharesSector r.what && sharesSector x.what && x.iid == r.iid && x.slack == r.slack && !x.back
      && x.va.toNat / 32 == r.va.toNat / 32)

/-- The requests of a group that one reply answers. -/
def sectorRequest (s : State) (g : Nat) (r : Req) : List Req := (groupAt s g).reqs.filter (sameSector r)

/-- Whether a load may be answered where it stands: served at its home, or from the cluster cache (R142). -/
def mayReturn (r : Req) : Bool := r.stage == .served || (r.stage == .cluster && (loadSpan r).isSome)

/-- Whether a prefetch has been served. -/
def mayReturnPref (r : Req) : Bool := r.stage == .served || r.stage == .cluster

/-- Whether a request that holds its data may be answered. -/
def answered (r : Req) : Bool := r.data.isSome && (mayReturn r || r.what == .known || r.mark == 13)

/-- A request's lane takes the values of its loads up to it, where the request has none; none while it may not. -/
def captureReq (s : State) (g : Nat) (r : Req) : Option State :=
  if !(mayReturn r) && (loadSpan r).isSome && r.data.isNone then none else captureLane s g r.lane r.id

/-- Every lane of a sector request takes its value; none while one may not. -/
def captureReqs (g : Nat) : List Req → State → Option State
  | [], s => some s
  | r :: rest, s => (captureReq s g r).bind (captureReqs g rest)

/-- Whether a split of a group is parked at a WAITA for the word at a location, which a lane reads. -/
def watched (gr : Group) (lane : Nat) (loc : Loc) : Bool :=
  gr.splits.any fun sp => sp.valid && sp.act.getLsbD lane &&
    (match sp.park with | some (.waita _ items) => items.any fun x => x.2.1 == loc | _ => false)

/-- RESULT_RETURN: the reply to an outstanding request of a group comes back and its results are written (R18, R141). -/
def execResultReturn (g id : Nat) (s : State) : Out :=
  match (groupAt s g).reqs.find? fun r => r.id == id && !r.back with
  | none => .next s
  | some r =>
    match r.what with
    | .genq gen => .next (receiveAll s g [{ r with data := some (genqWords s (groupAt s g).part gen) }])
    | .prefetch _ =>
      let rs := sectorRequest s g r
      if rs.all mayReturnPref then .next (receiveAll s g rs) else .next s
    -- its WAITA takes it (R181); where no split waits for it any more it is gone
    | .watch loc =>
      if r.stage == .served && !(watched (groupAt s g) r.lane loc) then
        .next (modGroup s g fun gr => { gr with reqs := gr.reqs.filter (·.id != id) })
      else .next s
    | _ =>
      match captureReqs g (sectorRequest s g r) s with
      | none => .next s
      | some s =>
        let rs := sectorRequest s g r
        if rs.all answered then .next (receiveAll s g rs) else .next s

/-- Whether two writes are one sector request whose acknowledgement is its reply (R141, R145). -/
def sameAck (w x : Write) : Bool := x.ret.isNone && sameRequest w x && x.slack == w.slack

/-- ACKNOWLEDGEMENT: the acknowledgement of a store, or of an atomic without a return, comes back (R141, R145, R271). -/
def execAcknowledgement (id : Nat) (s : State) : Out :=
  match s.flight.find? fun w => w.id == id && w.applied && w.ret.isNone with
  | none => .next s
  | some w =>
    if (s.flight.any fun x => sameAck w x && !x.applied) || (groupAt s w.group).storeQ.any (sameAck w) then .next s
    else
      let s := { s with flight := s.flight.filter fun x => !(sameAck w x) }
      let s := if remaining w.slack s.now == 0 then countLate s w.wg else s
      .next (wake s w.group)

end Sys2Proof.Machine
end

