-- ==== Sys2Proof/Machine/LaneMemory.lean ====
section
/-!
DEFINITION. Loads, stores and atomics of a lane and of a quad's sequencer (R87, R169 to R177, R317): addresses, checks in
the order of Table 10.2, translation (R239 to R242), range locks (R162, R163), the miss table (R145); PREF, FENCE,
PAGE_WALK.
-/

namespace Sys2Proof.Machine

/-! ## Range locks (R162, R163) -/

/-- A span rounded outward to 256-byte boundaries: first byte, and one past the last. -/
def lockSpan (base rows rowbytes stride : Nat) : Nat × Nat :=
  (base / 256 * 256, (base + (rows - 1) * stride + rowbytes + 255) / 256 * 256)

/-- What side of a command lies in memory that lanes address: none, global or pool (Table 10.7). -/
inductive Side where
  | other | global | pool
deriving DecidableEq, Repr

def srcSide (kind : Nat) : Side :=
  match kind with
  | 0 | 3 | 7 => .global
  | 1 | 2 | 4 | 8 => .pool
  | _ => .other
def dstSide (kind : Nat) : Side :=
  match kind with
  | 1 | 6 | 10 => .global
  | 0 | 2 | 5 | 9 => .pool
  | _ => .other

/-- Whether a command's ranges bar an access to n bytes at an address. -/
def commandBars (c : Command) (side : Side) (addr n : Nat) (writes : Bool) : Bool :=
  let hit (sp : Nat × Nat) : Bool := sp.1 < addr + n && addr < sp.2
  (dstSide c.kind == side && hit (lockSpan c.dst c.rows c.rowbytes c.dstride))
    || (writes && srcSide c.kind == side && hit (lockSpan c.src c.rows c.rowbytes c.sstride))

/-- Whether an operation of the same cluster bars an access (R163); pool addresses are those of one gang. -/
def rangeLocked (s : State) (g : Nat) (pool : Bool) (addr n : Nat) (writes : Bool) : Bool :=
  let gr := groupAt s g
  let gang := (wgOf s g).gang
  s.wgs.any fun w => w.part == gr.part && w.core / 8 == gr.core / 8 && (!pool || w.gang == gang)
    && w.commands.any fun c => commandBars c (if pool then .pool else .global) addr n writes

/-! ## One access of one lane -/

/-- The outcome of an access's checks. -/
inductive Found where
  | ok (l : Loc)
  | bad (code : Nat) (ft : Bool)
  | foreign (frame : Nat)
deriving DecidableEq, Repr

/-- The page of an address. -/
def pageOf (va : DWord) : Nat := va.toNat / 65536

/-- The translation of a page that the issuing core's cache holds. -/
def Env.known (v : Env) (page : Nat) : Option Walk := (tlbFind v.s v.gr.part v.gr.core page).map .leaf

/-- Whether an access needs a translation at all. -/
def Ask.translates (a : Ask) : Bool := !a.pool && a.va.toNat % a.align == 0 && a.va.toNat < 2 ^ 52

/-- Whether an access must wait for its translation. -/
def Env.misses (v : Env) (a : Ask) : Bool := a.translates && (v.known (pageOf a.va)).isNone

/-- The pages whose translation is awaited by the accesses of a list. -/
def pagesOf (asks : List Ask) : List Nat := distinct (asks.map fun a => pageOf a.va)

/-- The accesses of a split that wait for a translation. -/
def askedBy (sp : Split) : List Ask := if sp.valid then (waitingOf sp).flatMap (·.asks) else []

/-- Pages being walked for a cluster (R241). -/
def clusterWalks (s : State) (p c : Nat) : List Nat :=
  pagesOf ((s.groups.filter fun gr => gr.part == p && gr.core / 8 == c).flatMap fun gr => gr.splits.flatMap askedBy)

/-- Whether the translation miss table of the cluster has no room for the pages of an instruction: those that the cluster's cache
holds need none (R241). -/
def Env.walksFull (v : Env) (pages : List Nat) : Bool :=
  let p := v.gr.part
  let walks := distinct (clusterWalks v.s p (clusterOf v.s v.g) ++ pages)
  1024 < (walks.filter fun page => (ctlbFind v.s p v.gr.core page).isNone).length

/-- Atomics that a host page accepts (R147). -/
def hostAtomic (op size : Nat) : Bool := (op == 0x90 || op == 0x96 || op == 0x97) && (size == 4 || size == 8)

/-- The checks of Table 10.2 on one access of split e, in their order, with its translation. DESIGN CHOICE (log 61): at a leaf of an
unreachable peer code 13 of R245 comes before codes 1 and 2 of USER, NX and W. -/
def judge' (s : State) (g e : Nat) (a : Ask) (found : Option Walk) : Found :=
  let p := (groupAt s g).part
  let writes := a.kind == .write || a.kind == .atomic
  let n := a.va.toNat
  if n % a.align != 0 then .bad 9 false
  else if a.pool then
    if poolEnd s g ≤ n then .bad 1 false
    else if rangeLocked s g true n a.size writes then .bad 3 false
    else .ok ⟨.pool (wgOf s g).gang, n⟩
  else if 2 ^ 52 ≤ n then .bad 1 false
  else match found with
    | none => .bad 1 false
    | some (.bad ft) => .bad 1 ft
    | some (.foreign f) => .foreign f
    | some .lostPeer => .bad 13 false
    | some (.leaf l) =>
      let loc := leafLoc p l a.va
      let c := leafCheck l (!(isSuper s g e)) a.kind
      if c != 0 then .bad c false
      else if !(ownsLoc s p loc) then .foreign (loc.addr / 65536)
      else if a.atom != 0 && loc.space == .host && !(hostAtomic a.atom a.size) then .bad 2 false
      else match a.gen with
        | some gen =>
          if hasSlice loc && (partAt s p).gens.any (·.num == gen) then .ok loc else .bad 1 false
        | none =>
          if a.lock && rangeLocked s g false n a.size writes then .bad 3 false
          else .ok (replicaLoc s p a.kind a.acq loc)

/-- The checks with what the core's cache holds. -/
def judgeAsk (v : Env) (a : Ask) : Found := judge' v.s v.g v.e a (v.known (pageOf a.va))

/-! ## The miss table (R145) -/

/-- A sector request: its instruction, the sector of its address. -/
def sectorKey (iid : Nat) (va : DWord) : Nat × Nat := (iid, va.toNat / 32)

/-- The sector requests that a core has outstanding: those on their way, and those that wait for a translation. -/
def missKeys (s : State) (p core : Nat) : List (Nat × Nat) :=
  let grs := s.groups.filter fun gr => gr.part == p && gr.core == core
  let ofReq (r : Req) : Option (Nat × Nat) :=
    match r.what with
    | .mem l _ _ | .view l _ _ _ | .entry l | .prefetch l => if isPool l || r.back then none else some (sectorKey r.iid r.va)
    | .walk => some (r.id, 0)
    | _ => none
  let ofWrite (w : Write) : Option (Nat × Nat) :=
    if isPool w.loc || w.piece.isSome then none else some (sectorKey w.iid w.va)
  distinct (grs.flatMap (fun gr => gr.reqs.filterMap ofReq ++ gr.storeQ.filterMap ofWrite
      ++ (gr.splits.flatMap askedBy).map fun a => sectorKey a.iid a.va)
    ++ (s.flight.filter fun w => w.part == p && w.core == core).filterMap ofWrite)

/-- Free entries of a core's miss table. -/
def missFree (s : State) (p core : Nat) : Nat := 4096 - (missKeys s p core).length

/-- The sector requests that an instruction would make: of the accesses that pass their checks or await a translation. -/
def Env.sectors (v : Env) (asks : List Ask) : List Nat :=
  distinct ((asks.filter fun a => !a.pool && (v.misses a || (match judgeAsk v a with | .ok _ => true | _ => false))).map fun a =>
    a.va.toNat / 32)

/-! ## The frame of an access instruction -/

/-- What a request asks for, at its location. -/
def Fetched.atLoc (loc : Loc) : Fetched → Fetched
  | .mem _ n sx => .mem loc n sx
  | .view _ n sx gen => .view loc n sx gen
  | .entry _ => .entry loc
  | .prefetch _ => .prefetch { loc with addr := loc.addr / 32 * 32 }
  | x => x

/-- Adds an outstanding request to a group. -/
def addReq (s : State) (g : Nat) (r : Req) : State := modGroup s g fun gr => { gr with reqs := gr.reqs ++ [r] }

/-- A write enters a store queue: at its end, or at its place in program order where its translation came late (R155). -/
def enterQueue (late : Bool) (w : Write) (q : List Write) : List Write :=
  if late then q.takeWhile (·.id < w.id) ++ w :: q.dropWhile (·.id < w.id) else q ++ [w]

/-- Makes an access that has passed its checks: its write enters the store queue, its request goes out (R171). A prefetch
goes to a slice, if the miss table has an entry for it, or it has held one already (R173). -/
def makeAccess (s : State) (g : Nat) (a : Ask) (loc : Loc) : State :=
  let gr := groupAt s g
  let inc := peerIncOf s gr.part gr.core loc a.va
  match a.write, a.req with
  | some w, some r =>
    let (rid, s) := fresh s
    let s := modGroup s g fun gr => { gr with storeQ := enterQueue a.late { w with loc := loc, ret := some rid, peerInc := inc, tid := rid } gr.storeQ }
    addReq s g { r with id := rid }
  | some w, none =>
    modGroup s g fun gr => { gr with storeQ := enterQueue a.late { w with loc := loc, peerInc := inc, tid := s.nextId } gr.storeQ }
  | none, some r =>
    if isPrefetch r.what && (!(hasSlice loc) || (!a.late && missFree s gr.part gr.core == 0)) then s
    else
      let (id, s) := fresh s
      addReq s g { r with id := id, what := r.what.atLoc loc, stage := startStage s gr.part loc, peerInc := inc }
  | none, none => s

/-- A JT entry load whose checks fail: it comes back at once with its fault (R119). -/
def failedEntry (s : State) (g : Nat) (r : Req) (code : Nat) (ft : Bool) : State :=
  let (id, s) := fresh s
  addReq s g { r with id := id, back := true, mark := code + (if ft then 256 else 0) }

/-- Settles one access, whose translation is known or not needed: it is made, or its lanes' fault is kept (R242). -/
def settleAsk (g : Nat) (x : State × Waiting) (a : Ask) (f : Found) : State × Waiting :=
  let (s, w) := x
  let fail (s : State) (code : Nat) (ft : Bool) : State × Waiting :=
    match a.req with
    | some r => match r.what with
      | .entry _ => (failedEntry s g r code ft, w)
      | .prefetch _ => (s, w)
      | _ => (s, fault code ft)
    | none => (s, fault code ft)
  match f with
  | .ok loc => (makeAccess (noteRole (groupAt s g).part loc s) g a loc,
      if a.req.isSome || a.write.isSome then w else { w with words := w.words ++ [(a.lane / 4, loc, a.comparand, a.va)] })
  | .bad c ft => fail (if c == 13 then noteWalk (.lane g a.lane a.iid) (groupAt s g).part a.va s else s) c ft
  | .foreign f => fail (ringForeign s g a.va f) 1 false
where
  /-- The faults with those of this access. -/
  fault (code : Nat) (ft : Bool) : Waiting :=
    { x.2 with faults := x.2.faults ++ sameFault a.who code a.va, ft := if ft then x.2.ft ||| maskOf 64 a.who else x.2.ft }

/-- The writes of an instruction's accesses get their serial numbers as it issues, in the order of its lanes (R155). -/
def numbered (s : State) : List Ask → List Ask × State
  | [] => ([], s)
  | a :: r =>
    match a.write with
    | none => let (r, s) := numbered s r; (a :: r, s)
    | some w =>
      let (id, s) := fresh s
      let (r, s) := numbered s r
      ({ a with write := some { w with id := id } } :: r, s)

/-- How an access instruction begins: it is held back, or every access of it is settled. -/
inductive Begun where
  | held (f : Eff)
  | done (s : State) (w : Waiting)

/-- The accesses of an instruction (R35 step 9, R145, R170, R242): it yields while its pages or its sector requests do not
fit; the accesses whose translations are known are settled at once, and the split parks for the others. need says how many
entries of the miss table it must find free. WAITA and JT go on with the instruction once all are known. -/
def Env.begin' (v : Env) (asks : List Ask) (dest : Option (Table.RFile × Nat × Nat)) (need : Nat) : Begun :=
  match v.sp.park with
  | some (.walk (w :: _)) => .done v.s w
  | _ =>
    let (asks, s) := numbered v.s asks
    let late := (asks.filter v.misses).map fun a => { a with late := true }
    if v.walksFull (pagesOf late) || missFree v.s v.gr.part v.gr.core < need then .held { s := v.s, flow := .yield }
    else
      let (s, w) := (asks.filter fun a => !(v.misses a)).foldl (fun x a => settleAsk v.g x a (judgeAsk v a))
        (s, { asks := late, dest := dest })
      if late.isEmpty then .done s w else .held { s := s, flow := .translate w }

/-- The effect of an instruction that is executed again once its translations are known. -/
def Eff.again (f : Eff) : Eff :=
  match f.flow with
  | .translate w => { f with flow := .hold .waitBit (some (.walk [w])) }
  | _ => f

/-- The faults of an access instruction, by ascending lane. -/
def Waiting.taken (w : Waiting) : List (Nat × Nat × DWord) := sortBy (fun x y => x.1 ≤ y.1) w.faults

/-- An access instruction. dest are the registers that it keeps pending from its issue. -/
def Env.access (v : Env) (asks : List Ask) (dest : Option (Table.RFile × Nat × Nat)) : Eff :=
  match v.begin' asks dest (v.sectors asks).length with
  | .held f => f
  | .done s w => { s := s, faults := w.taken, ft := w.ft }

/-- An order that reaches beyond the cluster (Table 9.1). -/
def reachesFar (m : Word) : Bool := Table.scopeOf m == 0 || 5 ≤ Table.scopeOf m

/-- Acquire and release strength of an access under a mode word (R152). -/
def acquires (m : Word) : Bool := Table.ordOf m % 2 == 1 && Table.scopeOf m != 1
def releases (m : Word) : Nat :=
  if Table.ordOf m < 2 || Table.scopeOf m == 1 then 0
  else if 2 ≤ Table.scopeOf m && Table.scopeOf m ≤ 4 then 1 else 2

/-- Access size under a mode word. -/
def accessSize (m : Word) : Nat := Table.sizeOf' (Table.msizeOf m)

/-- The lanes of a list that may store (R92). -/
def Env.realLanes (v : Env) : List Nat := v.lanes.filter fun l => !(laneAt v.gr l).helper

/-! ## Loads -/

/-- The request of a load of size n by a lane under a mode word, for the registers from base of some lanes. -/
def loadReq (s : State) (g iid : Nat) (m : Word) (lane n : Nat) (va : DWord) (acq : Bool) (gen : Option Nat)
    (file : Table.RFile) (base : Nat) (lanes : LaneMask) : Req :=
  let t := Table.typeOf m
  let sx := t == 0 || t == 2 || t == 4 || t == 12
  { iid := iid, what := match gen with | some g => .view {} n sx g | none => .mem {} n sx
    file := file, lane := lane, lanes := lanes, base := base, regs := (n + 3) / 4, va := va, acq := acq
    wide := acq && reachesFar m, slack := slackOf s g (Table.slkOf m) }

/-- The largest register count of a v+ operand in the quads of the instruction. -/
def Env.plus (v : Env) : Nat := (v.quads.map fun k => Table.plusCount (Table.msizeOf (modeOf v.gr k))).foldl max 1

/-- A lane load: an address for each lane (Table 10.1). -/
def laneLoads (v : Env) (pool : Bool) (addr : Nat → Word → DWord) (gen : Nat → Option Nat) : Eff :=
  let (iid, s) := fresh v.s
  let asks := v.lanes.map fun l =>
    let m := modeOf v.gr (l / 4)
    let n := accessSize m
    { iid := iid, lane := l, who := [l], va := addr l m, size := n, align := n, kind := .read, pool := pool, acq := acquires m
      lock := (gen l).isNone, gen := gen l
      req := some (loadReq v.s v.g iid m l n (addr l m) (acquires m) (gen l) .vec v.d (BitVec.twoPow 64 l)) : Ask }
  { v with s := s }.access asks (some (.vec, v.d, v.plus))

/-- Addresses of Table 10.1. -/
def Env.addrOff (v : Env) (l : Nat) : DWord := vPair v.gr l v.a + BitVec.ofNat 64 v.b
def Env.addrIndex (v : Env) (l : Nat) (m : Word) : DWord :=
  sPair v.gr (l / 4) v.a + zext (vGet v.gr l v.b) * BitVec.ofNat 64 (accessSize m)
def Env.addrPool (v : Env) (l : Nat) : DWord := zext (vGet v.gr l v.a + BitVec.ofNat 32 v.b)

/-- LD (R172). -/
def ldFx (v : Env) : Eff := laneLoads v false (fun l _ => v.addrOff l) fun _ => none
def execLd (d a b : Byte) (s : State) : Out := issue1 0x80 d a b ldFx s
/-- LDX (R172). -/
def ldxFx (v : Env) : Eff := laneLoads v false v.addrIndex fun _ => none
def execLdx (d a b : Byte) (s : State) : Out := issue1 0x81 d a b ldxFx s
/-- LDP (R172, R136). -/
def ldpFx (v : Env) : Eff := laneLoads v true (fun l _ => v.addrPool l) fun _ => none
def execLdp (d a b : Byte) (s : State) : Out := issue1 0x84 d a b ldpFx s

/-- LDV (R317): a live read is LD; a closed generation reads its image. -/
def ldvFx (v : Env) : Eff :=
  laneLoads v false (fun l _ => vPair v.gr l v.a) fun l =>
    let g := (sGet v.gr (l / 4) v.b).toNat
    if g == 0xFFFFFFFF || g == (partAt v.s v.gr.part).gencur then none else some g
def execLdv (d a b : Byte) (s : State) : Out := issue1 0x86 d a b ldvFx s

/-- SLD (R87): one access per quad, of its lowest active lane; every active lane of the quad takes its fault. -/
def sldFx (v : Env) : Eff :=
  let (iid, s) := fresh v.s
  let asks := v.quads.map fun k =>
    let m := modeOf v.gr k
    let act := v.act.filter (· / 4 == k)
    let n := accessSize m
    let va := sPair v.gr k v.a + BitVec.ofNat 64 v.b
    { iid := iid, lane := act.headD 0, who := act, va := va, size := n, align := n, kind := .read, acq := acquires m
      req := some (loadReq v.s v.g iid m (act.headD 0) n va (acquires m) none .seq v.d (maskOf 64 act)) : Ask }
  { v with s := s }.access asks (some (.seq, v.d, v.plus))
def execSld (d a b : Byte) (s : State) : Out := issue1 0x65 d a b sldFx s

/-! ## Stores -/

/-- A write of a lane, before it leaves the store queue. -/
def newWrite (s : State) (g iid : Nat) (m : Word) (lane n : Nat) (va : DWord) (pool : Bool) (op : MemOp) : Write :=
  let gr := groupAt s g
  { iid := iid, part := gr.part, core := gr.core, group := g, wg := gr.wg, lane := lane, size := n, op := op
    acq := acquires m && !isStore op
    rel := if pool then min 1 (releases m) else releases m  -- R156: a pool access reaches the cluster at most
    slack := slackOf s g (Table.slkOf m), va := va, lanes := BitVec.twoPow 64 lane }

/-- n bytes of a run of lane registers. -/
def laneRunBytes (gr : Group) (l r n : Nat) : List Byte :=
  ((List.range ((n + 3) / 4)).flatMap fun i => leBytes 4 (vGet gr l (r + i)).toNat).take n

/-- A lane store. -/
def laneStores (v : Env) (pool : Bool) (addr : Nat → Word → DWord) : Eff :=
  let (iid, s) := fresh v.s
  let asks := v.realLanes.map fun l =>
    let m := modeOf v.gr (l / 4)
    let n := accessSize m
    { iid := iid, lane := l, who := [l], va := addr l m, size := n, align := n, kind := .write, pool := pool
      write := some (newWrite v.s v.g iid m l n (addr l m) pool (.store (laneRunBytes v.gr l v.d n))) : Ask }
  { v with s := s }.access asks none

/-- ST (R172). -/
def stFx (v : Env) : Eff := laneStores v false fun l _ => v.addrOff l
def execSt (d a b : Byte) (s : State) : Out := issue1 0x82 d a b stFx s
/-- STX (R172). -/
def stxFx (v : Env) : Eff := laneStores v false v.addrIndex
def execStx (d a b : Byte) (s : State) : Out := issue1 0x83 d a b stxFx s
/-- STP (R172, R136). -/
def stpFx (v : Env) : Eff := laneStores v true fun l _ => v.addrPool l
def execStp (d a b : Byte) (s : State) : Out := issue1 0x85 d a b stpFx s

/-- SST (R87): suppressed in a quad whose active lanes are all helper lanes; its stores keep the order of the quads, and every active
lane of a quad takes the fault of its store. -/
def sstFx (v : Env) : Eff :=
  let (iid, s) := fresh v.s
  let asks := v.quads.filterMap fun k =>
    let m := modeOf v.gr k
    let act := v.act.filter (· / 4 == k)
    let n := accessSize m
    let va := sPair v.gr k v.a + BitVec.ofNat 64 v.b
    let x := if n == 8 then (sPair v.gr k v.d).toNat else (sGet v.gr k v.d).toNat
    if act.all fun l => (laneAt v.gr l).helper then none
    else some { iid := iid, lane := act.headD 0, who := act, va := va, size := n, align := n, kind := .write
                write := some { newWrite v.s v.g iid m (act.headD 0) n va false (.store (leBytes n x)) with
                  lanes := maskOf 64 act, ordered := true } : Ask }
  { v with s := s }.access asks none
def execSst (d a b : Byte) (s : State) : Out := issue1 0x66 d a b sstFx s

/-! ## Atomics (R175 to R177) -/

/-- Atomics of the real lanes: op gives a lane's operation, regs the words it returns (0 for none). -/
def laneAtomics (v : Env) (size : Word → Nat) (align : Word → Nat) (op : Nat → Word → MemOp) (regs : Word → Nat) : Eff :=
  let (iid, s) := fresh v.s
  let asks := v.realLanes.map fun l =>
    let m := modeOf v.gr (l / 4)
    let va := vPair v.gr l v.a
    let r : Req :=
      { iid := iid, what := .atomic, lane := l, lanes := BitVec.twoPow 64 l, base := v.d, regs := regs m, va := va
        acq := acquires m, slack := slackOf v.s v.g (Table.slkOf m), stage := .core }
    { iid := iid, lane := l, who := [l], va := va, size := size m, align := align m, kind := .atomic, acq := acquires m
      atom := v.op, write := some { newWrite v.s v.g iid m l (size m) va false (op l m) with ordered := true }
      req := if regs m == 0 then none else some r : Ask }
  let most := (v.quads.map fun k => regs (modeOf v.gr k)).foldl max 0
  { v with s := s }.access asks (if most == 0 then none else some (.vec, v.d, most))

/-- Size of an integer or FP32 atomic. -/
def atomicSize (m : Word) : Nat := if Table.msizeOf m == 3 then 8 else 4
/-- The operand at register r of a lane. -/
def atomicArg (v : Env) (l r : Nat) (m : Word) : Nat := vRead' v.gr l r (Table.msizeOf m == 3)
where
  /-- A register, or a pair. -/
  vRead' (gr : Group) (l r : Nat) (wide : Bool) : Nat := if wide then (vPair gr l r).toNat else (vGet gr l r).toNat

/-- The instructions of Table 10.4. -/
def atomicFx (v : Env) : Eff :=
  laneAtomics v atomicSize atomicSize
    (fun l m =>
      let n := if Table.msizeOf m == 3 then 2 else 1
      .atomic v.op (Table.typeOf m) (atomicArg v l v.b m) (if v.op == 0x97 then atomicArg v l (v.b + n) m else 0))
    (fun m => if v.d == 255 then 0 else atomicSize m / 4)

/-- AADD (R175). -/
def execAadd (d a b : Byte) (s : State) : Out := issue1 0x90 d a b atomicFx s
/-- AMIN (R175). -/
def execAmin (d a b : Byte) (s : State) : Out := issue1 0x91 d a b atomicFx s
/-- AMAX (R175). -/
def execAmax (d a b : Byte) (s : State) : Out := issue1 0x92 d a b atomicFx s
/-- AAND (R175). -/
def execAand (d a b : Byte) (s : State) : Out := issue1 0x93 d a b atomicFx s
/-- AOR (R175). -/
def execAor (d a b : Byte) (s : State) : Out := issue1 0x94 d a b atomicFx s
/-- AXOR (R175). -/
def execAxor (d a b : Byte) (s : State) : Out := issue1 0x95 d a b atomicFx s
/-- AXCH (R175). -/
def execAxch (d a b : Byte) (s : State) : Out := issue1 0x96 d a b atomicFx s
/-- ACAS (R175). -/
def execAcas (d a b : Byte) (s : State) : Out := issue1 0x97 d a b atomicFx s
/-- AFADD (R175). -/
def execAfadd (d a b : Byte) (s : State) : Out := issue1 0x98 d a b atomicFx s

/-- REDC (R176). -/
def redcFx (v : Env) : Eff :=
  laneAtomics v (fun _ => 8) (fun _ => 8) (fun l _ => .atomic 0x99 0 (vGet v.gr l v.b).toNat 0)
    (fun _ => if v.d == 255 then 0 else 2)
def execRedc (d a b : Byte) (s : State) : Out := issue1 0x99 d a b redcFx s

/-- CPRD (R176). -/
def cprdFx (v : Env) : Eff := laneAtomics v (fun _ => 8) (fun _ => 8) (fun _ _ => .cprd) fun _ => 2
def execCprd (d a b : Byte) (s : State) : Out := issue1 0x9A d a b cprdFx s

/-- REDX (R177): k is the quad's s[D], signed. -/
def redxFx (v : Env) : Eff :=
  laneAtomics v (fun _ => 8) (fun _ => 8)
    (fun l _ => .redx (redxConv (vGet v.gr l v.b).toNat (sGet v.gr (l / 4) v.d).toInt)) fun _ => 0
def execRedx (d a b : Byte) (s : State) : Out := issue1 0x9B d a b redxFx s

/-! ## PREF (R173) -/

/-- PREF (R173): it never faults; what would fault, or lies on a host or peer page, and a sector for which the miss table has
no entry, are dropped. -/
def prefFx (v : Env) : Eff :=
  let (iid, s) := fresh v.s
  let asks := v.lanes.map fun l =>
    { iid := iid, lane := l, who := [l], va := v.addrOff l, size := 1, align := 1, kind := .read, lock := false
      req := some { iid := iid, what := .prefetch {}, lane := l, lanes := BitVec.twoPow 64 l, regs := 0, va := v.addrOff l
                    slack := slackOf v.s v.g (Table.slkOf (modeOf v.gr (l / 4))) } : Ask }
  -- the sectors for which the miss table has an entry
  let kept := (v.sectors asks).take (missFree v.s v.gr.part v.gr.core)
  match { v with s := s }.begin' (asks.filter fun a => kept.contains (a.va.toNat / 32)) none kept.length with
  | .held f => f
  | .done s _ => { s := s }
def execPref (d a b : Byte) (s : State) : Out := issue1 0x87 d a b prefFx s

/-! ## FENCE (R174) -/

/-- Whether every write of a group has been acknowledged. -/
def groupAcked (s : State) (g : Nat) : Bool :=
  (groupAt s g).storeQ.isEmpty && !(s.flight.any (ofGroup g))

/-- Whether a group has no atomic that is still to be performed. -/
def atomicsDone (s : State) (g : Nat) : Bool := (unperformed s g).all fun w => isStore w.op

/-- The ordering of a FENCE of kind k of group g, which reaches beyond the cluster or not: its loads have taken their values, and
whether all that it orders is done. -/
def fenceTurn (s : State) (g k : Nat) (wide : Bool) : State × Bool :=
  match captureAll s g with
  | none => (s, false)
  | some s =>
    -- what its loads have seen is to be seen by all before a fence that reaches beyond the cluster lets others go on (R157)
    let seen := !(s.flight.any fun w => !w.applied && w.group != g && w.seenBy.contains g)
    let s := if k == 2 then s else noteAcquire s g
    let sys := k == 3
    let stores := k != 1
    (s, (k == 2 || atomicsDone s g)
      && (!(k == 0 || sys) || wide || (groupAt s g).storeQ.isEmpty)
      && (k == 2 || !wide || seen)
      && (!(stores && wide) || ((groupAt s g).storeQ.isEmpty && groupDrained s g && clusterPerformed s g))
      && (!sys || groupAcked s g))

/-- The stores that fence.sys reports as lost in some lanes (R245), and the group without the report. -/
def lostStores (gr : Group) (lanes : List Nat) : List (Nat × Nat × DWord) × Group :=
  let lost := lanes.filterMap fun l => (laneAt gr l).lost.map fun a => (l, 13, a)
  (lost, each (lost.map (·.1)) (fun l gr => modLane gr l fun ln => { ln with lost := none }) gr)

/-- FENCE (R174): it parks until its ordering is met, and stands at the next instruction meanwhile (R101); fence.sys then reports
lost stores (R245). -/
def fenceFx (v : Env) : Eff :=
  let scope (k : Nat) : Nat := Table.scopeOf (modeOf v.gr k)
  let sys := v.b == 3
  let wide := sys || v.quads.any fun k => scope k == 0 || 5 ≤ scope k
  if !sys && v.quads.all fun k => scope k == 1 then { s := v.s }
  else
    let (s, met) := fenceTurn v.s v.g v.b wide
    if !met then { s := s, flow := .translate { fence := some (v.b, wide), lanes := v.sp.act } }
    else if sys then
      let (lost, gr) := lostStores (groupAt s v.g) v.act
      { s := modGroup s v.g fun _ => gr, faults := lost, flow := .endRun }
    else { s := s, flow := .endRun }
def execFence (d a b : Byte) (s : State) : Out := issue1 0x88 d a b fenceFx s

/-- Whether some of a group's lanes have an acquire outstanding: a load without its value, or an atomic that is not performed. What
follows it in their program order waits where it takes effect at once (R152, R208). -/
def acquiresDue (s : State) (g : Nat) (lanes : List Nat) : Bool :=
  ((groupAt s g).reqs.any fun r => r.acq && lanes.contains r.lane && (loadSpan r).isSome && r.data.isNone)
    || (unperformed s g).any fun w => w.acq && lanes.contains w.lane && !isStore w.op

/-! ## PAGE_WALK (R239 to R242) -/

/-- Whether what precedes an access of serial number upTo in its lane's program order allows its walk to read (R240): the lane's
loads have taken their values; none while one may not, or while an atomic of the lane is to be performed. -/
def walkReady (s : State) (g lane upTo : Nat) : Option State :=
  if (unperformed s g).any fun w => w.lane == lane && w.id < upTo && !isStore w.op then none
  else captureLane s g lane upTo

/-- Whether a lane has nothing of its own on the way: its walk reads what any lane of the cluster would. -/
def walksAlike (s : State) (g : Nat) (a : Ask) : Bool := !((unperformed s g).any fun w => w.lane == a.lane)

/-- The slack of an access, which a walk that it starts uses (R269). -/
def Ask.deadline (a : Ask) : Slack :=
  match a.req, a.write with
  | some r, _ => r.slack
  | none, some w => w.slack
  | none, none => a.slack

/-- A waiting access with a lane to make it: of a quad's SLD, SST or WAITA whose lane has died, the lowest that still lives (R87). -/
def Ask.heir (gr : Group) (a : Ask) : Option Ask :=
  if laneLive gr a.lane then some a
  else (a.who.find? (laneLive gr)).map fun l =>
    { a with lane := l, req := a.req.map fun r => { r with lane := l }, write := a.write.map fun w => { w with lane := l } }

/-- The waiting accesses of a split to a page are settled with its walk (R242), those with no lane left are dropped. -/
def settleSplit (page : Nat) (w : Walk) (only : Ask → Bool) (g e : Nat) (s : State) : State :=
  match (splitAt (groupAt s g) e).park with
  | some (.walk xs) =>
    let (s, xs) := xs.foldl (fun (y : State × List Waiting) x =>
      let (s, x') := settleWaiting y.1 x
      (s, y.2 ++ [x'])) (s, [])
    modGroup s g fun gr => modSplit gr e fun sp => { sp with park := some (.walk xs) }
  | _ => s
where
  /-- The accesses of one instruction. -/
  settleWaiting (s : State) (x : Waiting) : State × Waiting :=
    let mine := x.asks.filter fun a => pageOf a.va == page && only a
    (mine.filterMap (Ask.heir (groupAt s g))).foldl (fun y a => settleAsk g y a (judge' y.1 g e a (some w)))
      (s, { x with asks := x.asks.filter fun a => !(pageOf a.va == page && only a) })

/-- Whether a split that stands after its accesses has nothing more to wait for before it goes on (R242, R243, R174, R316). -/
def Waiting.over (w : Waiting) : Bool := w.asks.isEmpty && w.upTo.isNone && w.fence.isNone && w.snap.isNone && w.fpc != 0

/-- A split that has all its translations, and stands after its accesses: it is ready or waits for its results, and the lanes
whose access failed fault before it issues again, those of one instruction after those of another (R242). -/
def translated (g e : Nat) (s : State) : State :=
  let sp := splitAt (groupAt s g) e
  match sp.park with
  | some (.walk ws) =>
    if !sp.valid || !(ws.all (·.over)) then s
    else
      let raised := owedIn (liveMask (groupAt s g))
        (sp.owed ++ ws.map fun w => { lanes := w.taken, ft := w.ft, fpc := w.fpc, next := some w.next })
      let s := modGroup s g fun gr => modSplit gr e fun sp =>
        { sp with st := if ws.any (·.results) then .waitBit else .ready, park := none, age := s.tick, owed := raised.drop 1 }
      match raised with
      | [] => s
      | r :: _ => trapEntry s g { r with entry := e }
  | _ => s

/-- Settles a group's waiting accesses to a page, with an acquire for its lanes (R240). -/
def settleGroup (page : Nat) (w : Walk) (only : Ask → Bool) (s : State) (g : Nat) : State :=
  if (groupAt s g).splits.any fun sp => (askedBy sp).any fun a => pageOf a.va == page && only a then
    let gr := groupAt s g
    let s := match w with | .leaf l => tlbFill s gr.part gr.core page l | _ => s
    wake (each (List.range 9) (translated g) (noteAcquire (each (List.range 9) (settleSplit page w only g) s) g)) g
  else s

/-- The first of some accesses to issue. -/
def firstAsk (l : List (Nat × Ask)) : Option (Nat × Ask) :=
  l.foldl (fun b x => match b with
    | none => some x
    | some y => if x.2.iid < y.2.iid then some x else some y) none

/-- The accesses of a logical cluster that wait for a page, each with its group. -/
def clusterAsks (s : State) (p c page : Nat) : List (Nat × Ask) :=
  (List.range s.groups.length).flatMap fun g =>
    let gr := groupAt s g
    if gr.part == p && gr.core / 8 == c then ((gr.splits.flatMap askedBy).filter fun a => pageOf a.va == page).map fun a => (g, a)
    else []

/-- The request that started the walk for a page of a logical cluster, with its group (R241): its slack is the walk's (R269). -/
def walkStarter (s : State) (p c page : Nat) : Option (Nat × Ask) := firstAsk (clusterAsks s p c page)

/-- The address of the record that a walk has come to (R192). -/
def Chase.rec_ (c : Chase) : Nat := c.recipe.nbase + c.node * c.recipe.nstride

/-- The walks that wait in the device, of its lanes' accesses and of the records that chases have come to: partition and slack. -/
def walksWaiting (s : State) : List (Nat × Slack) :=
  let keys := distinct (s.groups.flatMap fun gr =>
    ((pagesOf (gr.splits.flatMap askedBy)).filter fun page => (ctlbFind s gr.part gr.core page).isNone).map fun page =>
      (gr.part, gr.core / 8, page))
  let chases := s.groups.flatMap fun gr => (gr.chases.filter fun c =>
    (cached s gr.part gr.core (c.rec_ % 2 ^ 64 / 65536)).isNone).filterMap fun c =>
      (gr.reqs.find? fun r => r.id == c.id && r.data.isNone && r.stage == .served).map fun r => (gr.part, r.slack)
  (keys.filterMap fun k => (walkStarter s k.1 k.2.1 k.2.2).map fun x => (k.1, x.2.deadline)) ++ chases

/-- Whether a walk of a partition and slack is one of those that the walkers serve now (R241, R268): 64 at the slice that homes the
root table, 3,072 in all. DEDUCED (log 64): the slice at which a walk is counted is that of the entry it reads first. -/
def walkServed (s : State) (p : Nat) (k : Slack) : Bool :=
  let before := (walksWaiting s).filter fun x => sooner s.now x.2 k
  let home (p : Nat) : Nat := homeSlice (cfgOf s p).root
  (before.filter fun x => home x.1 == home p).length < 64 && before.length < 3072

/-- Whether a unit's access may have a page translated now, as one of slack k: a cache holds it, or the walkers serve its walk in
the order of slack (R268). -/
def walkDue (s : State) (p core page : Nat) (k : Slack) : Bool :=
  2 ^ 36 ≤ page || (cached s p core page).isSome || walkServed s p k

/-- PAGE_WALK (R240, R241): a page for which an access of a group waits is found in the cluster's translation cache, or the
walk for it ends, in the order of slack, its result late or not (R268 to R271); every access of the cluster that waits for the
page and would read alike is served with it. -/
def execPageWalk (g page : Nat) (s : State) : Out :=
  let gr := groupAt s g
  let held := ctlbFind s gr.part gr.core page
  match firstAsk (((gr.splits.flatMap askedBy).filter fun a => pageOf a.va == page).map fun a => (g, a)),
      walkStarter s gr.part (gr.core / 8) page with
  | some (_, a), some (h, a0) =>
    if held.isNone && !(walkServed s gr.part a0.deadline) then .next s
    else match walkReady s g a.lane a.iid with
    | none => .next s
    | some s =>
      let (w, s) := match held with
        | some l => (Walk.leaf l, s)
        | none =>
          let va := BitVec.ofNat 64 (page * 65536)
          (walk s (.lane g a.lane a.iid) gr.part va,
            recallWalk (if lateReply s a0.deadline 1 then countLate s (groupAt s h).wg else s) (.lane g a.lane a.iid) gr.part gr.core va)
      let s := match w with | .leaf l => ctlbFill s gr.part gr.core page l | _ => s
      let s := settleGroup page w (fun x => x.lane == a.lane && x.iid == a.iid) s g
      let mates := (List.range s.groups.length).filter fun h =>
        let x := groupAt s h
        x.part == gr.part && x.core / 8 == gr.core / 8 && !x.gone
      let joins (h : Nat) (x : Ask) : Bool :=
        walksAlike s g a && walksAlike s h x && (groupAt s h).reqs.all fun r => r.lane != x.lane || x.iid ≤ r.id || r.data.isSome || (loadSpan r).isNone
      .next (mates.foldl (fun t h => settleGroup page w (joins h) t h) s)
  | _, _ => .next s

end Sys2Proof.Machine
end

