-- ==== Sys2Proof/Machine/Matrix.lean ====
section
/-!
DEFINITION. The matrix engine (R139, R194 to R210): MACQ, MREL, MSHP, MMA, MZERO, MRD, MWR, the core's allocator, and the
step that performs a queued MMA.
-/

namespace Sys2Proof.Machine

/-! ## Reservations (R195 to R201) -/

/-- Whether the grid of a group is a matrix grid (R195). -/
def matrixGrid (s : State) (g : Nat) : Bool := (gridOf s g).recd.accrows != 0

/-- The reservation of a group's workgroup. -/
def reservOf (s : State) (g : Nat) : Option Reservation := (wgOf s g).reserv
def modReserv (s : State) (w : Nat) (f : Reservation → Reservation) : State :=
  modWg s w fun x => { x with reserv := x.reserv.map f }

/-- K of an A format (Table 11.3). -/
def kOf (afmt : Nat) : Nat := if afmt == 7 || afmt == 8 then 24 else 48

/-- Table 11.3. -/
def pairOk (a b : Nat) : Bool :=
  ((a == 9 || a == 10) && (b == 9 || b == 10 || b == 11)) || (a == 4 && (b == 4 || b == 11))
    || (a == 7 && b == 7) || (a == 8 && b == 8)

/-- The reservation record at s[A] of the lowest quad (Table 11.2): none where a reserved field is set. -/
def reservRec (v : Env) : Option Reservation :=
  let r (i : Nat) : Nat := (sGet v.gr v.q0 (v.a + i)).toNat
  let zero (x lo n : Nat) : Bool := x / 2 ^ lo % 2 ^ n == 0
  if zero (r 0) 19 13 && zero (r 0) 10 6 && zero (r 1) 24 8 && zero (r 1) 13 3 && zero (r 1) 5 3
      && zero (r 2) 14 18 && zero (r 3) 14 18 && r 4 == 0 && r 5 == 0 && r 6 == 0 && r 7 == 0 then
    some
      { rows := r 0 % 1024, windows := r 0 / 2 ^ 16 % 8, block := r 1 / 2 ^ 16 % 256, bfmt := r 1 / 256 % 32
        afmt := r 1 % 32, saoff := r 2 % 2 ^ 14, sboff := r 3 % 2 ^ 14 }
  else none

/-- The checks of R200 on a record. -/
def reservOk (s : State) (g : Nat) (r : Reservation) : Bool :=
  r.rows % 8 == 0 && 8 ≤ r.rows && r.rows ≤ 512 && (wgOf s g).wgsz ≤ r.rows && r.rows ≤ (gridOf s g).recd.accrows
    && 1 ≤ r.windows && r.windows ≤ 4 && pairOk r.afmt r.bfmt
    && (r.block == 0 || ((r.block == 16 || r.block == 24 || r.block == 48) && r.afmt != 4))
    && (r.block == 0 || (r.saoff % 2 == 0 && r.sboff % 2 == 0))

/-- Granules of a reservation. -/
def granulesOf (r : Reservation) : Nat := r.rows / 8 * r.windows

/-- Free granules of a core. -/
def freeGranules (s : State) (p core : Nat) : Nat :=
  256 - (s.wgs.filter fun w => w.part == p && w.core == core && !w.retired).foldl (fun n w =>
    n + (match w.reserv with | some r => granulesOf r | none => 0)) 0

/-- The allocator of a core takes the request that arrived first (R199). -/
def allocateNext (p core : Nat) (s : State) : State :=
  let all := ((List.range s.wgs.length).zip s.wgs).filterMap fun iw =>
    if iw.2.part == p && iw.2.core == core then iw.2.macq.map fun m => (iw.1, m) else none
  match sortBy (fun a b => a.2.2.1 ≤ b.2.2.1) all with
  | [] => s
  | (w, g, id, r) :: _ =>
    let ok := (wgAt s w).reserv.isNone && granulesOf r ≤ freeGranules s p core
    let s := modWg s w fun x => { x with macq := none, reserv := if ok then some r else x.reserv }
    fillReq s g id fun q => { q with data := some [if ok then 1 else 0] }

/-- The allocator takes requests in order until none of a workgroup is left. -/
def allocateFor (w p core : Nat) : Nat → State → State
  | 0, s => s
  | n + 1, s => if (wgAt s w).macq.isNone then s else allocateFor w p core n (allocateNext p core s)

/-- MACQ (R199): its request goes to the core's allocator, and its status returns later. It never blocks: an earlier
request of the workgroup is taken first, with those before it, so that code 15 is known as the instruction issues. DESIGN CHOICE (log
61): its own code 5 comes after the checks 6 to 8 of R35. -/
def macqFx (v : Env) : Eff :=
  let w := v.gr.wg
  if v.e == 8 || !(matrixGrid v.s v.g) then v.allFault 5 v.pc
  else match reservRec v with
    | none => v.allFault 5 v.pc
    | some r =>
      let s := allocateFor w v.gr.part v.gr.core (v.s.wgs.length + 1) v.s
      if !(reservOk v.s v.g r) then v.allFault 5 v.pc
      else if (wgAt s w).reserv.isSome then { v.allFault 15 v.pc with s := s }
      else
        let (id, s) := fresh s
        let q : Req :=
          { id := id, iid := id, what := .known, file := .prd, lane := v.act.headD 0, lanes := maskOf 64 v.act
            base := v.d % 16, regs := 1 }
        let s := modGroup s v.g fun gr => { gr with reqs := gr.reqs ++ [q] }
        { s := modWg s w fun x => { x with macq := some (v.g, id, r) } }
def execMacq (d a b : Byte) (s : State) : Out := issue1 0xB3 d a b macqFx s

/-- MATRIX_ALLOCATOR (R199): the allocator of a core takes the request that arrived first. -/
def execMatrixAllocator (p core : Nat) (s : State) : Out := .next (allocateNext p core s)

/-- The queued MMAs of a workgroup. -/
def mmasOf (s : State) (w : Nat) : List Mma := s.cores.flatMap fun c => c.mmas.filter (·.wg == w)

/-- Commands with an accumulator side (Table 10.7). -/
def accSide (kind : Nat) : Bool := 3 ≤ kind && kind ≤ 6

/-- MREL (R201). DESIGN CHOICE (log 61): its own code 5 comes after the checks 6 to 8 of R35. -/
def mrelFx (v : Env) : Eff :=
  let w := v.gr.wg
  if v.e == 8 || !(matrixGrid v.s v.g) then v.allFault 5 v.pc
  else if (wgAt v.s w).reserv.isNone then { s := v.s }
  else if !(mmasOf v.s w).isEmpty || (wgAt v.s w).commands.any fun c => accSide c.kind then
    { s := v.s, flow := .hold .waitBit none }
  else { s := modWg v.s w fun x => { x with reserv := none }, flow := .endRun }
def execMrel (d a b : Byte) (s : State) : Out := issue1 0xB4 d a b mrelFx s

/-! ## Shape records (R202) -/

/-- Row size of a B format. -/
def rowSize (fmt : Nat) : Nat := if fmt == 7 || fmt == 8 then 128 else 64

/-- MSHP (R202). DESIGN CHOICE (log 61): its own code 5 comes after the checks 6 to 8 of R35. -/
def mshpFx (v : Env) : Eff :=
  let r (i : Nat) : Nat := (sGet v.gr v.q0 (v.a + i)).toNat
  let (addr, stride, brows, fmt, kstep) := (r 0, r 1, r 2 % 256, r 2 / 256 % 32, r 3 % 65536)
  match (if v.e == 8 then none else reservOf v.s v.g) with
  | none => v.allFault 5 v.pc
  | some rv =>
    let lastByte := addr + (brows - 1) * stride + rowSize fmt - 1
    if 2 ^ 13 ≤ r 2 || 2 ^ 16 ≤ r 3 || brows == 0 || fmt != rv.bfmt || stride < rowSize fmt || 65536 < stride then
      v.allFault 5 v.pc
    else if addr % 32 != 0 || stride % 32 != 0 then v.allFault 9 (BitVec.ofNat 64 addr)
    else if poolEnd v.s v.g ≤ lastByte then v.allFault 1 (BitVec.ofNat 64 lastByte)
    else
      let (ver, s) := fresh v.s
      { s := modReserv s v.gr.wg fun x =>
          { x with shapes := upd x.shapes v.d fun _ =>
              { defined := true, ver := ver, addr := addr, stride := stride, fmt := fmt, brows := brows, kstep := kstep } } }
def execMshp (d a b : Byte) (s : State) : Out := issue1 0xB5 d a b mshpFx s

/-! ## MMA (R198, R204, R205) -/

/-- Scale offset of row r, or of column c, in a block (R198). -/
def aScale (rv : Reservation) (r blk : Nat) : Nat := rv.saoff + 2 * (blk * rv.rows + r)
def bScale (rv : Reservation) (c blk : Nat) : Nat := rv.sboff + 2 * (blk * 64 * rv.windows + c)

/-- Scale block of element k of a step. -/
def blockOf (rv : Reservation) (kstep k : Nat) : Nat := (kstep * kOf rv.afmt + k) / rv.block

/-- Whether a step would read beyond the scale quarter. -/
def scaleBeyond (rv : Reservation) (sh : Shape) (window : Nat) (rows : List Nat) : Bool :=
  rv.block != 0 &&
    let top := blockOf rv sh.kstep (kOf rv.afmt - 1)
    decide (0x4000 ≤ bScale rv (64 * window + 63) top) || rows.any fun r => decide (0x4000 ≤ aScale rv r top)

/-- MMA (R204): it enters the core's queue of 32, behind the acquires of its lanes (R208). DESIGN CHOICE (log 61): its checks, that of R195 for a reservation among them, are
made where a lane performs it, after the checks 6 to 8 of R35; with none it does nothing. -/
def mmaFx (v : Env) : Eff :=
  let ls := v.realLanes
  if ls.isEmpty then { s := v.s }
  else match (if v.e == 8 then none else reservOf v.s v.g) with
    | none => v.allFault 5 v.pc
    | some rv =>
      let sh := nth {} rv.shapes v.b
      let rows := ls.map (tidOf v.gr)
      if rv.windows ≤ v.d || !sh.defined then v.allFault 5 v.pc
      else if sh.brows != kOf rv.afmt then v.allFault 11 v.pc
      else if scaleBeyond rv sh v.d rows then v.allFault 5 v.pc
      else if 32 ≤ (coreAt v.s v.gr.part v.gr.core).mmas.length || acquiresDue v.s v.g ls then { s := v.s, flow := .yield }
      else
        let (id, s) := fresh v.s
        let part (l : Nat) : MmaLane :=
          { lane := l, row := tidOf v.gr l, rnd := Table.rndOf (modeOf v.gr (l / 4))
            a := (List.range 12).flatMap fun i => leBytes 4 (vGet v.gr l (v.a + i)).toNat }
        let m : Mma :=
          { id := id, wg := v.gr.wg, group := v.g, window := v.d, shape := sh, reader := ls.headD 0, pc := v.pc
            lanes := ls.map part }
        let s := modCore s v.gr.part v.gr.core fun c => { c with mmas := c.mmas ++ [m] }
        { s := modGroup s v.g fun gr => if gr.idem then { gr with regionMma := id + 1 } else gr }
def execMma (d a b : Byte) (s : State) : Out := issue1 0xB6 d a b mmaFx s

/-- Element i of packed bytes. -/
def elemOf (t : Nat) (bytes : List Byte) (i : Nat) : Nat :=
  if elemBits t == 16 then leNat ((bytes.drop (2 * i)).take 2) else (nth 0 bytes i).toNat

/-- Key of an accumulator element. -/
def accKey (row col : Nat) : Nat := row * 256 + col

/-- The scale entry at an offset. -/
def scaleAt (w : Workgroup) (off : Nat) : FVal :=
  decodeF bf16 ((cellGet 0 off w.scale).toNat + 256 * (cellGet 0 (off + 1) w.scale).toNat)

/-- One element's new value (R50, R52): its bits, its lane's flags, whether an integer sum saturated. -/
def mmaElem (w : Workgroup) (rv : Reservation) (sh : Shape) (tile : List Byte) (ln : MmaLane) (col : Nat) : Nat × Word × Bool :=
  let k := kOf rv.afmt
  let old := (cellGet 0 (accKey ln.row col) rv.acc).toNat
  let av (i : Nat) : Nat := elemOf rv.afmt ln.a i
  let bv (i : Nat) : Nat := elemOf sh.fmt (tile.drop (i * rowSize sh.fmt)) (col % 64)
  if rv.afmt == 4 then
    let bInt (i : Nat) : Int := if sh.fmt == 11 then ppVal (bv i) else intOf 4 (bv i)
    let sum := (List.range k).foldl (fun (x : Int) i => x + intOf 4 (av i) * bInt i) (intOf 0 old)
    let (r, f) := fitInt 0 true sum
    (r, 0, f != 0)
  else
    let one : FVal := .fin false 1 0
    let sa (i : Nat) : FVal := if rv.block == 0 then one else scaleAt w (aScale rv ln.row (blockOf rv sh.kstep i))
    let sb (i : Nat) : FVal := if rv.block == 0 then one else scaleAt w (bScale rv col (blockOf rv sh.kstep i))
    let terms := (List.range k).map fun i => (floatOf rv.afmt (av i), floatOf sh.fmt (bv i), sa i, sb i)
    let (r, f) := windowF terms (decodeF fp32 old) ln.rnd
    (r, f, false)

/-- One lane's row after a step, with the lane's flags. -/
def mmaRow (w : Workgroup) (m : Mma) (tile : List Byte) (ln : MmaLane) (rv : Reservation) : Reservation × Word :=
  (List.range 64).foldl (fun (x : Reservation × Word) j =>
    let col := 64 * m.window + j
    let (v, f, sat) := mmaElem w rv m.shape tile ln col
    ({ x.1 with
       acc := cellPut 0 (accKey ln.row col) (BitVec.ofNat 32 v) x.1.acc
       overflow := if sat then setAdd ln.row x.1.overflow else x.1.overflow }, x.2 ||| f)) (rv, 0)

/-- The tile's bytes as the reading lane's loads see them: its own stores up to the MMA, then the pool. -/
def readTile (s : State) (m : Mma) : List Byte :=
  let gg := gangOf s m.group
  let k := (wgAt s m.wg).gang
  let own := (groupAt s m.group).storeQ.reverse.filter fun w => w.lane == m.reader && w.id < m.id
  let byte (a : Nat) : Byte := (forwarded ⟨.pool k, a⟩ own).getD (cellGet 0 a gg.pool)
  (List.range m.shape.brows).flatMap fun i =>
    (List.range (rowSize m.shape.fmt)).map fun j => byte (m.shape.addr + i * m.shape.stride + j)

/-- The load point of a shape record (R203): the record and every queued MMA that names it take the tile. -/
def latchTile (s : State) (m : Mma) : Option State :=
  match m.shape.tile with
  | some _ => some s
  | none => (if held then none else captureLane s m.group m.reader m.id).map fun s =>
    let t := readTile s m
    let latch (sh : Shape) : Shape := if sh.ver == m.shape.ver && sh.defined then { sh with tile := some t } else sh
    let s := modReserv s m.wg fun rv => { rv with shapes := rv.shapes.map latch }
    { s with cores := s.cores.map fun c =>
        { c with mmas := c.mmas.map fun x => if x.wg == m.wg then { x with shape := latch x.shape } else x } }
where
  /-- An earlier atomic of the reading lane that acquires is still to be performed, or an earlier walk of it to read (R155, R192). -/
  held : Bool := ((unperformed s m.group).any fun w => w.lane == m.reader && w.id < m.id && !isStore w.op && w.acq)
    || (walksDue s m.group).any fun r => r.lane == m.reader && r.id < m.id

/-- An inline-detected error of an MMA (R209): the group restarts if the MMA issued in the region that is still its last,
and is killed otherwise. -/
def mmaError (s : State) (m : Mma) (cls : Nat) : State :=
  let gr := groupAt s m.group
  if !(groupCounts gr) then s
  else if gr.regionMma == m.id + 1 then inlineError (modGroup s m.group fun gr => { gr with idem := true }) m.group m.pc cls
  else killGroup s m.group m.pc

/-- Columns of a row's window with an uncorrectable element. -/
def rowErrs (rv : Reservation) (row window : Nat) : List Nat :=
  rv.err.filter fun x => x / 256 == row && x % 256 / 64 == window

/-- The elements of a row's window are written back with good ECC (R330). -/
def rebuild (rv : Reservation) (bad : List Nat) : Reservation := { rv with err := rv.err.filter fun x => !(bad.contains x) }

/-- The scale offsets that a step reads. -/
def scaleReads (rv : Reservation) (m : Mma) : List Nat :=
  if rv.block == 0 then [] else
    let blks := distinct ((List.range (kOf rv.afmt)).map (blockOf rv m.shape.kstep))
    blks.flatMap fun b =>
      (m.lanes.map fun ln => aScale rv ln.row b) ++ (List.range 64).map fun j => bScale rv (64 * m.window + j) b

/-- Performs an MMA whose tile is latched (R205, R209, R327, R330, R331). -/
def performMma (s : State) (core : Nat) (m : Mma) (tile : List Byte) : State :=
  let w := wgAt s m.wg
  match w.reserv with
  | none => s
  | some rv =>
    let errs := m.lanes.map fun ln => rowErrs rv ln.row m.window
    if (scaleReads rv m).any fun o => w.errScale.contains o then
      if groupCounts (groupAt s m.group) then killGroup s m.group m.pc else s
    else if errs.any fun e => 2 ≤ e.length then
      if groupCounts (groupAt s m.group) then killGroup s m.group m.pc else s
    else if errs.any fun e => !e.isEmpty then
      mmaError (modReserv s m.wg fun rv => rebuild rv errs.flatten) m 3
    else if (coreAt s w.part core).checksumBad then
      mmaError (modCore s w.part core fun c => { c with checksumBad := false }) m 0
    else
      let dead := m.lanes.filter fun ln => rv.poison.any fun x => x / 256 == ln.row && x % 256 / 64 == m.window
      let s := killLanes s m.group (dead.map (·.lane)) m.pc
      (m.lanes.filter fun ln => !(dead.contains ln)).foldl (fun (s : State) (ln : MmaLane) =>
        match (wgAt s m.wg).reserv with
        | none => s
        | some rv =>
          let (rv', f) := mmaRow w m tile ln rv
          let s := modWg s m.wg fun x => { x with reserv := some rv' }
          modGroup s m.group fun gr => orFlags gr ln.lane f) s

/-- MMA_STEP (R203, R205): the engine of a core performs the MMA at the head of its queue. -/
def execMmaStep (p core : Nat) (s : State) : Out :=
  match (if (partAt s p).frozen || clockGated s p core then [] else (coreAt s p core).mmas) with
  | [] => .next s
  | m :: _ =>
    match latchTile s m with
    | none => .next s
    | some s =>
      match (coreAt s p core).mmas with
      | [] => .next s
      | m :: rest =>
        let s := modCore s p core fun c => { c with mmas := rest }
        .next (wake (performMma s core m (m.shape.tile.getD [])) m.group)

/-! ## Moving rows (R206, R207) -/

/-- Whether a queued MMA of the workgroup updates some of these rows, or their overflow flags, in whatever window. -/
def rowsBusy (s : State) (w : Nat) (rows : Nat → Bool) : Bool := (mmasOf s w).any fun m => m.lanes.any fun ln => rows ln.row

/-- MZERO (R206): held behind the MMAs that came before it, and the acquires of its lanes (R208). DESIGN CHOICE (log 61): its own code 5
comes after the checks 6 to 8 of R35. -/
def mzeroFx (v : Env) : Eff :=
  let f := (sGet v.gr v.q0 v.a).toNat
  let n := (sGet v.gr v.q0 v.b).toNat
  let mine (r : Nat) : Bool := decide (f ≤ r) && decide (r < f + n)
  match (if v.e == 8 then none else reservOf v.s v.g) with
  | none => v.allFault 5 v.pc
  | some rv =>
    if rv.rows < f + n then v.allFault 5 v.pc
    else if rowsBusy v.s v.gr.wg mine || acquiresDue v.s v.g v.act then { s := v.s, flow := .yield }
    else { s := modReserv v.s v.gr.wg fun rv =>
      { rv with
        acc := rv.acc.filter fun e => !(mine (e.1 / 256)), overflow := rv.overflow.filter fun r => !(mine r)
        poison := rv.poison.filter fun x => !(mine (x / 256)), err := rv.err.filter fun x => !(mine (x / 256)) } }
def execMzero (d a b : Byte) (s : State) : Out := issue1 0xB7 d a b mzeroFx s

/-- The checks that MRD and MWR share: none where they fail. -/
def Env.rowBlock (v : Env) : Option Reservation :=
  match (if v.e == 8 then none else reservOf v.s v.g) with
  | none => none
  | some rv => if 64 * rv.windows ≤ 16 * v.b then none else some rv

/-- Whether the rows of some lanes, elements and overflow flag, wait for a queued MMA, or for an acquire of a lane (R207, R208). -/
def Env.rowsHeld (v : Env) (ls : List Nat) : Bool :=
  (rowsBusy v.s v.gr.wg fun r => ls.any fun l => tidOf v.gr l == r) || acquiresDue v.s v.g ls

/-- MRD (R207, R330, R331). DESIGN CHOICE (log 61): its own code 5 comes after the checks 6 to 8 of R35. -/
def mrdFx (v : Env) : Eff :=
  match v.rowBlock with
  | none => v.allFault 5 v.pc
  | some rv =>
    let ls := v.realLanes
    let keys (l : Nat) : List Nat := (List.range 16).map fun j => accKey (tidOf v.gr l) (16 * v.b + j)
    let errs := ls.map fun l => (keys l).filter rv.err.contains
    -- a row is met where one of its 16 elements is in error, and judged by its whole window
    let whole := (ls.filter fun l => (keys l).any rv.err.contains).map fun l => rowErrs rv (tidOf v.gr l) (v.b / 4)
    if v.rowsHeld ls then { s := v.s, flow := .yield }
    else if errs.any fun e => !e.isEmpty then
      if whole.any fun e => 2 ≤ e.length then { s := killGroup v.s v.g v.pc, flow := .placed true }
      else { s := inlineError (modReserv v.s v.gr.wg fun rv => rebuild rv errs.flatten) v.g v.pc 3, flow := .placed true }
    else
      let dead := ls.filter fun l => (keys l).any rv.poison.contains
      let s := killLanes v.s v.g dead v.pc
      if !dead.isEmpty && ((splitAt (groupAt s v.g) v.e).pc != v.pc || !(splitAt (groupAt s v.g) v.e).valid) then
        { s := s, flow := .placed true }
      else
        let one (l : Nat) (gr : Group) : Group :=
          if (laneAt gr l).helper then vSetRun gr l v.d (List.replicate 16 0)
          else
            let gr := vSetRun gr l v.d ((keys l).map fun k => cellGet 0 k rv.acc)
            if rv.overflow.contains (tidOf v.gr l) then orFlags gr l flSaturated else gr
        { s := modGroup s v.g (each (v.lanes.filter fun l => !(dead.contains l)) one) }
def execMrd (d a b : Byte) (s : State) : Out := issue1 0xB8 d a b mrdFx s

/-- MWR (R207): held behind the MMAs that came before it (R208). DESIGN CHOICE (log 61): its own code 5 comes after the checks 6 to 8 of
R35. -/
def mwrFx (v : Env) : Eff :=
  match v.rowBlock with
  | none => v.allFault 5 v.pc
  | some _ =>
    let ls := v.realLanes
    if v.rowsHeld ls then { s := v.s, flow := .yield }
    else
      let put (l : Nat) (rv : Reservation) : Reservation :=
        let row := tidOf v.gr l
        let rv := each (List.range 16) (fun j rv =>
          let k := accKey row (16 * v.b + j)
          { rv with
            acc := cellPut 0 k (vGet v.gr l (v.a + j)) rv.acc, poison := setDel k rv.poison, err := setDel k rv.err }) rv
        { rv with overflow := setDel row rv.overflow }
      { s := modReserv v.s v.gr.wg (each ls put) }
def execMwr (d a b : Byte) (s : State) : Out := issue1 0xB9 d a b mwrFx s

end Sys2Proof.Machine
end

