-- ==== Sys2Proof/Machine/Engines.lean ====
section
/-!
DEFINITION. Guard slots (R185, R186), the copy engine (R162, R164, R187 to R190, R320) and the chase engines (R191 to
R193).
-/

namespace Sys2Proof.Machine

/-! ## Command queues (R186) -/

/-- The first command of a queue that has not started. -/
def queueHead (w : Workgroup) : Option Command := w.commands.find? fun c => !c.started

/-- The state of a guard slot: 1 for no slot. -/
def slotState (w : Workgroup) (n : Nat) : Word := if n == 255 then 1 else nth 2 w.guards n

/-- The head of a queue is released or discarded as its guard slot stands; a head that is discarded uncovers the next. -/
def settleHead : Nat → Workgroup → Workgroup
  | 0, w => w
  | n + 1, w =>
    match queueHead w with
    | none => w
    | some c =>
      if c.released || slotState w c.guard == 1 then
        { w with commands := w.commands.map fun x => if x.id == c.id then { x with released := true } else x }
      else if slotState w c.guard == 0 then settleHead n { w with commands := w.commands.filter (·.id != c.id) }
      else w

/-- settleHead with a round for every command. -/
def settleQueue (s : State) (w : Nat) : State := modWg s w fun x => settleHead (x.commands.length + 1) x

/-- GRES (R185). DESIGN CHOICE (log 61): its own code 5 comes after the checks 6 to 8 of R35. -/
def gresFx (v : Env) : Eff :=
  let x := sGet v.gr v.q0 v.a
  if (wgAt v.s v.gr.wg).guards.length ≤ v.d || 3 ≤ x.toNat then v.allFault 5 v.pc
  else { s := settleQueue (modWg v.s v.gr.wg fun w => { w with guards := upd w.guards v.d fun _ => x }) v.gr.wg }
def execGres (d a b : Byte) (s : State) : Out := issue1 0xA8 d a b gresFx s

/-! ## COPY (R187, R188) -/

/-- A memory that a side of a copy lies in (Table 10.7). -/
inductive CopySide where
  | global | pool | acc | scale | fill
deriving DecidableEq, Repr

def copySrc (kind : Nat) : CopySide :=
  match kind with
  | 0 | 3 | 7 => .global
  | 1 | 2 | 4 | 8 => .pool
  | 5 | 6 => .acc
  | _ => .fill
def copyDst (kind : Nat) : CopySide :=
  match kind with
  | 0 | 2 | 5 | 9 => .pool
  | 1 | 6 | 10 => .global
  | 3 | 4 => .acc
  | _ => .scale

/-- The record at s[A] of the lowest quad (Table 10.6). -/
def copyRec (v : Env) (id : Nat) : Command :=
  let r (i : Nat) : Nat := (sGet v.gr v.q0 (v.a + i)).toNat
  { id := id, kind := r 0 % 16, group := v.g, quad := (quadAt v.gr v.q0).q, pc := v.pc, slack := slackOf v.s v.g (r 0 / 256 % 8), guard := r 0 / 2 ^ 16 % 256
    src := r 1 + 2 ^ 32 * r 2, dst := r 3 + 2 ^ 32 * r 4, rows := r 5, rowbytes := r 6, sstride := r 7, dstride := r 8
    caddr := r 9, cval := sGet v.gr v.q0 (v.a + 10), fill := sGet v.gr v.q0 (v.a + 11)
    user := !(isSuper v.s v.g v.e), cls := r 0 / 256 % 8
    after := ((mmasOf v.s v.gr.wg).filter fun m => m.seenBy.contains v.g).map (·.id) }

/-- One past the last byte of a side. -/
def sideEnd (base rows rowbytes stride : Nat) : Nat := base + (rows - 1) * stride + rowbytes

/-- The code 5 checks of one side (R188, R195). -/
def sideOk (v : Env) (side : CopySide) (base rows rowbytes stride : Nat) : Bool :=
  let long := rows ≤ 1 || rowbytes ≤ stride
  match side with
  -- R188 exempts no kind from its check of SSTRIDE (log 61)
  | .fill | .global => long
  | .pool => long && decide (sideEnd base rows rowbytes stride ≤ poolEnd v.s v.g)
  | .scale => long && matrixGrid v.s v.g && decide (sideEnd base rows rowbytes stride ≤ 0x4000)
  | .acc =>
    match reservOf v.s v.g with
    | none => false
    | some rv =>
      decide (rowbytes ≤ 1024) && (rows ≤ 1 || stride == 1024) && decide (base / 1024 + rows ≤ rv.rows)
        && decide (base % 1024 + rowbytes ≤ 256 * rv.windows)

/-- The code 5 checks of a record, s[A] whole being w0. -/
def copyOk (v : Env) (w0 : Nat) (c : Command) : Bool :=
  w0 / 2 ^ 24 == 0 && w0 / 2 ^ 11 % 32 == 0 && w0 / 16 % 16 == 0 && c.kind ≤ 10
    && 1 ≤ c.rows && c.rows ≤ 65536 && 4 ≤ c.rowbytes && c.rowbytes ≤ 65536 && c.rowbytes % 4 == 0
    && c.cval.toNat < 2 ^ 31 && (c.guard == 255 || c.guard < (wgAt v.s v.gr.wg).guards.length)
    && c.caddr < poolEnd v.s v.g
    && sideOk v (copySrc c.kind) c.src c.rows c.rowbytes c.sstride && sideOk v (copyDst c.kind) c.dst c.rows c.rowbytes c.dstride
    && !(copySrc c.kind == .pool && copyDst c.kind == .pool
        && decide (c.src < sideEnd c.dst c.rows c.rowbytes c.dstride)
        && decide (c.dst < sideEnd c.src c.rows c.rowbytes c.sstride))

/-- The address that a code 9 records: the base of a side that is misaligned or whose stride is, or CADDR. -/
def copyMisaligned (c : Command) : Option Nat :=
  let al (side : CopySide) : Nat := if side == .scale then 2 else 4
  if c.src % 4 != 0 || c.sstride % 4 != 0 then some c.src
  else if c.dst % al (copyDst c.kind) != 0 || c.dstride % al (copyDst c.kind) != 0 then some c.dst
  else if c.caddr % 4 != 0 then some c.caddr
  else none

/-- The commands of a logical cluster, each with a range-lock entry (R162). -/
def clusterCommands (s : State) (p c : Nat) : Nat :=
  (s.wgs.filter fun w => w.part == p && w.core / 8 == c).foldl (fun n w => n + w.commands.length) 0

/-- COPY (R187, R188), which comes behind the acquires of its lanes (R208). DESIGN CHOICE (log 61): its own code 5 comes after the checks
6 to 8 of R35. -/
def copyFx (v : Env) : Eff :=
  let w := v.gr.wg
  if v.act.all fun l => (laneAt v.gr l).helper then { s := v.s }
  else
    let (id, s) := fresh v.s
    let c := copyRec v id
    if !(copyOk v (sGet v.gr v.q0 v.a).toNat c) then v.allFault 5 v.pc
    else match copyMisaligned c with
      | some a => v.allFault 9 (BitVec.ofNat 64 a)
      | none =>
        if 8 ≤ (wgAt v.s w).commands.length || 64 ≤ clusterCommands v.s v.gr.part (clusterOf v.s v.g) || acquiresDue v.s v.g v.act then
          { s := v.s, flow := .yield }
        else { s := settleQueue (modWg s w fun x => { x with commands := x.commands ++ [c] }) w }
def execCopy (d a b : Byte) (s : State) : Out := issue1 0xB0 d a b copyFx s

/-- COPY_COMMAND_START (R186, R189): of the released heads of a core's queues, the one with least slack starts. -/
def execCopyCommandStart (p core : Nat) (s : State) : Out :=
  let ws := positions (fun (w : Workgroup) => w.part == p && w.core == core) s.wgs
  let s := each ws (fun w s => settleQueue s w) s
  let heads := ws.filterMap fun w => match queueHead (wgAt s w) with
    | some c => if c.released then some (w, c) else none
    | none => none
  let heads := if coreHalted s p core then [] else heads
  let key (c : Command) : Nat := remaining c.slack s.now
  match sortBy (fun a b => key a.2 < key b.2 || (key a.2 == key b.2 && a.2.id ≤ b.2.id)) heads with
  | [] => .next s
  | (w, c) :: _ =>
    .next (settleQueue (modWg s w fun x =>
      { x with commands := x.commands.map fun y => if y.id == c.id then { y with started := true } else y }) w)

/-! ## Moving sectors (R189, R190, R320) -/

/-- Sector k of one side of a command, at that side's 32-byte boundaries: what it holds of each row, as row, first byte and one past
the last byte within the row. Rows that meet in a sector, nine at most, share it (R163); it is numbered by the first of them, and is empty under
any other number. -/
def sectorSpans (c : Command) (base stride k : Nat) : List (Nat × Nat × Nat) :=
  let m := c.rowbytes / 32 + 2
  let row := k / m
  let start (r : Nat) : Nat := base + r * stride
  let sec := start row / 32 + k % m
  let span (r : Nat) : Nat × Nat × Nat := (r, 32 * sec - start r, min c.rowbytes (32 * (sec + 1) - start r))
  let holds (x : Nat × Nat × Nat) : Bool := decide (x.1 < c.rows) && decide (x.2.1 < x.2.2)
  let shared : Bool := row != 0 && (start (row - 1) + c.rowbytes - 1) / 32 == sec
  if holds (span row) && !shared then ((List.range 9).map fun i => span (row + i)).filter holds else []

/-- Sector k of the destination. -/
def writeSpans (c : Command) (k : Nat) : List (Nat × Nat × Nat) := sectorSpans c c.dst c.dstride k
/-- Sector k of the source; a fill has the sectors of its destination. -/
def readSpans (c : Command) (k : Nat) : List (Nat × Nat × Nat) :=
  if copySrc c.kind == .fill then writeSpans c k else sectorSpans c c.src c.sstride k

/-- Every destination sector has been written or sent. -/
def copyDone (c : Command) : Bool :=
  (List.range (c.rows * (c.rowbytes / 32 + 2))).all fun k => (writeSpans c k).isEmpty || c.sent.contains k

/-- The words of n bytes at a location that are poisoned. -/
def badWords (s : State) (l : Loc) (n : Nat) : List Nat :=
  (List.range ((n + 3) / 4)).filter fun i => spanPoisoned s { l with addr := l.addr + 4 * i } (min 4 n)

/-- What a sector read finds in global memory: its bytes as the engine's cluster sees them, and the poisoned words. -/
def sectorRead (s : State) (wi : Nat) (l : Loc) (n : Nat) : List Byte × List Nat :=
  let w := wgAt s wi
  let ws := departed s w.part (w.core / 8)
  (clusterBytes s w.part (w.core / 8) l n, (List.range ((n + 3) / 4)).filter fun i =>
    (List.range (min 4 n)).any fun j => seenPoisoned s ws { l with addr := l.addr + 4 * i + j })

/-- The walk that an engine's access to a page needs, of a packet of class cls. -/
def lateWalk (s : State) (wi va cls : Nat) : State :=
  let w := wgAt s wi
  walkedFor (.cluster (w.core / 8)) w.part w.core wi { s := (nth {} w.slack cls).s, t0 := s.now } s (va / 65536)

/-- Whether the walkers serve it now (R268). -/
def lateWalkDue (s : State) (wi va cls : Nat) : Bool :=
  let w := wgAt s wi
  walkDue s w.part w.core (va / 65536) { s := (nth {} w.slack cls).s, t0 := s.now }

/-- What a sector read finds in the pool, the accumulator store or the fill word, at an address. -/
def localRead (s : State) (wi : Nat) (c : Command) (a n : Nat) : List Byte × List Nat :=
  let w := wgAt s wi
  let words := List.range ((n + 3) / 4)
  match copySrc c.kind with
  | .pool => let l : Loc := ⟨.pool w.gang, a⟩; (homeBytes s l n, badWords s l n)
  | .acc =>
    let rv := w.reserv.getD {}
    let key (i : Nat) : Nat := accKey (a / 1024) (a % 1024 / 4 + i)
    (words.flatMap fun i => leBytes 4 (cellGet 0 (key i) rv.acc).toNat, words.filter fun i => rv.poison.contains (key i))
  | _ => ((words.flatMap fun _ => leBytes 4 c.fill.toNat).take n, [])

/-- Accumulator elements written raw (R189 step 2). -/
def accWrite (rv : Reservation) (a : Nat) (bytes : List Byte) (bad : List Nat) : Reservation :=
  let row := a / 1024
  let rv := each (List.range (bytes.length / 4)) (fun i rv =>
    let k := accKey row (a % 1024 / 4 + i)
    { rv with
      acc := cellPut 0 k (BitVec.ofNat 32 (leNat ((bytes.drop (4 * i)).take 4))) rv.acc
      poison := if bad.contains i then setAdd k rv.poison else setDel k rv.poison
      err := setDel k rv.err }) rv
  { rv with overflow := setDel row rv.overflow }

/-- Changes a command of a workgroup. -/
def modCommand (s : State) (wi id : Nat) (f : Command → Command) : State :=
  modWg s wi fun x => { x with commands := x.commands.map fun c => if c.id == id then f c else c }

/-- Writes bytes to a destination of the core: the pool, the accumulator store or scale memory. -/
def localWrite (s : State) (wi : Nat) (c : Command) (a : Nat) (bytes : List Byte) (bad : List Nat) : State :=
  let n := bytes.length
  match copyDst c.kind with
  | .acc => modReserv s wi fun rv => accWrite rv a bytes bad
  | .scale =>
    modWg s wi fun x =>
      { x with
        scale := memWrite x.scale a bytes
        errScale := (List.range n).foldl (fun e i =>
          if bad.contains (i / 4) then setAdd (a + i) e else setDel (a + i) e) x.errScale }
  | _ =>
    let l : Loc := ⟨.pool (wgAt s wi).gang, a⟩
    storePoison (pokeBytes s l bytes) 0 0 l n bad

/-- The slack of a packet that a command's engine issues now: that of its class as the table stands (R269, R273); it never takes
a report option (R271). -/
def packetSlack (s : State) (wi : Nat) (c : Command) : Slack := { s := (nth {} (wgAt s wi).slack c.cls).s, t0 := s.now }

/-- A sector's write sets out for its home, as a packet of its own (R189, R270), the bytes of each row that it holds in a part of
its own, of the location, the address, the bytes and the poisoned words; in host memory it is performed at once. -/
def sendSector (s : State) (wi : Nat) (c : Command) (parts : List (Loc × Nat × List Byte × List Nat)) : State :=
  let w := wgAt s wi
  let iid := s.nextId
  let send (s : State) (x : Loc × Nat × List Byte × List Nat) : State :=
    let (id, s) := fresh s
    { s with flight := s.flight ++
        [{ id := id, iid := iid, part := w.part, core := w.core, group := c.group, wg := wi, loc := x.1, size := x.2.2.1.length
           op := .store x.2.2.1, slack := packetSlack s wi c, stage := startStage s w.part x.1, piece := some c.id
           bad := x.2.2.2, gen := (partAt s w.part).gencur, inc := (partAt s w.part).inc, va := BitVec.ofNat 64 x.2.1
           peerInc := peerIncOf s w.part w.core x.1 (BitVec.ofNat 64 x.2.1) }] }
  let s := parts.foldl send s
  match s.flight.find? (·.id == iid) with
  | some x => if x.loc.space == .host then (performUnit s x).getD s else s
  | none => s

/-- The bytes of a row's span as the buffer holds them. -/
def bufferBytes (c : Command) (row lo hi : Nat) : List Byte :=
  (List.range (hi - lo)).map fun i => ((c.buf.find? (·.1 == row * c.rowbytes + lo + i)).map (·.2)).getD 0

/-- Whether the buffer holds every byte of a row's span. -/
def buffered (c : Command) (x : Nat × Nat × Nat) : Bool :=
  (List.range (x.2.2 - x.2.1)).all fun i => c.buf.any (·.1 == x.1 * c.rowbytes + x.2.1 + i)

/-- The destination sectors, from those of eight rows before a row on to those of its eight followers, whose bytes have all been read
and that are not on their way yet. -/
def readySectors (c : Command) (row : Nat) : List Nat :=
  let m := c.rowbytes / 32 + 2
  ((List.range (17 * m)).map ((row - 8) * m + ·)).filter fun k =>
    !c.sent.contains k && !(writeSpans c k).isEmpty && (writeSpans c k).all (buffered c)

/-- Writes one destination sector from the buffer, unless the command has stopped, or has to wait for its page's walk. -/
def writeSector (wi id : Nat) (s : State) (k : Nat) : State :=
  match (wgAt s wi).commands.find? (·.id == id) with
  | none => s
  | some c =>
    match (if c.failed.isSome then [] else writeSpans c k) with
    | [] => s
    | x0 :: rest =>
      let w := wgAt s wi
      let addr (x : Nat × Nat × Nat) : Nat := c.dst + x.1 * c.dstride + x.2.1
      let base (x : Nat × Nat × Nat) : Nat := x.1 * c.rowbytes + x.2.1
      let bytes (x : Nat × Nat × Nat) : List Byte := bufferBytes c x.1 x.2.1 x.2.2
      let bad (x : Nat × Nat × Nat) : List Nat :=
        (List.range ((x.2.2 - x.2.1 + 3) / 4)).filter fun i => c.bufBad.contains (base x / 4 + i)
      let taken (c : Command) : Command :=
        { c with sent := setAdd k c.sent, buf := c.buf.filter fun b => !((x0 :: rest).any fun x => base x ≤ b.1 && b.1 < base x + (x.2.2 - x.2.1)) }
      match copyDst c.kind with
      | .global =>
        if !(lateWalkDue s wi (addr x0) c.cls) then s
        else
        let walked := lateWalk s wi (addr x0) c.cls
        match engineLoc s (.cluster (w.core / 8)) w.part w.core c.user (addr x0) .write with
        | .error (code, f) => failCommand walked wi id code f (addr x0)
        | .ok l =>
          let s := walked
          modCommand (sendSector s wi c ((x0 :: rest).map fun x =>
            ({ l with addr := l.addr + (addr x - addr x0) }, addr x, bytes x, bad x))) wi id taken
      | _ => modCommand ((x0 :: rest).foldl (fun s x => localWrite s wi c (addr x) (bytes x) (bad x)) s) wi id taken

/-- A source sector has been read: its bytes, row by row, enter the buffer, and every destination sector they complete is
written. -/
def sectorCame (s : State) (wi id k : Nat) (got : List (List Byte × List Nat)) : State :=
  match (wgAt s wi).commands.find? (·.id == id) with
  | none => s
  | some c =>
    let spans := readSpans c k
    let enter (c : Command) (x : (Nat × Nat × Nat) × List Byte × List Nat) : Command :=
      let base := x.1.1 * c.rowbytes + x.1.2.1
      { c with
        buf := c.buf ++ ((List.range x.2.1.length).zip x.2.1).map fun y => (base + y.1, y.2)
        bufBad := x.2.2.foldl (fun b i => setAdd (base / 4 + i) b) c.bufBad }
    let c' := (spans.zip got).foldl enter { c with ops := c.ops.filter (·.k != k), done := setAdd k c.done }
    match spans with
    | [] => s
    | x :: _ => (readySectors c' x.1).foldl (writeSector wi id) (modCommand s wi id fun _ => c')

/-- The command ends: its completion word is written, its range-lock entry and queue place are free (R164, R190). -/
def endCommand (s : State) (wi : Nat) (c : Command) (word : Word) : State :=
  let l : Loc := ⟨.pool (wgAt s wi).gang, c.caddr⟩
  let s := clearPoison (pokeBytes s l (leBytes 4 word.toNat)) l 4
  -- the completion word has a packet of class 0 (R269), whose acknowledgement may come late
  let k : Slack := { s := (nth {} (wgAt s wi).slack 0).s, t0 := s.now }
  let s := if lateReply s k 0 then countLate s wi else s
  settleQueue (modWg s wi fun x => { x with commands := x.commands.filter (·.id != c.id) }) wi

/-- A command whose every sector has been written, or which has stopped on a fault (R190, R298), ends once nothing that it
has sent is still on its way. -/
def finishCopy (s : State) (wi id : Nat) : State :=
  match (wgAt s wi).commands.find? (·.id == id) with
  | none => s
  | some c =>
    if s.flight.any fun w => w.piece == some id && !w.applied then s
    else match c.failed with
      | some (code, frame, addr) =>
        let s := match frame with
          | some f => ringForeign s c.group (BitVec.ofNat 64 addr) f
          | none => if code == 13 then noteWalk .unit (wgAt s wi).part (BitVec.ofNat 64 addr) s else s
        endCommand (ringGroup s c.group 4 addr code) wi c (BitVec.ofNat 32 (0x80000000 + code * 2 ^ 24 + c.cval.toNat % 2 ^ 24))
      | none => if copyDone c then endCommand s wi c c.cval else s

/-- Uncorrectable elements that a sector read meets in the accumulator store (R330, R209): a lone one of a window row is
rebuilt, two or more stay as poison, and the group that issued the command is killed. -/
def pieceErrors (s : State) (wi : Nat) (c : Command) (a n : Nat) : Option State :=
  match copySrc c.kind, (wgAt s wi).reserv with
  | .acc, some rv =>
    let keys := (List.range (n / 4)).map fun i => accKey (a / 1024) (a % 1024 / 4 + i)
    let bad := keys.filter rv.err.contains
    if bad.isEmpty then none
    else
      let lost := bad.filter fun k => 2 ≤ (rowErrs rv (k / 256) (k % 256 / 64)).length
      let s := modReserv s wi fun rv => { rebuild rv bad with poison := each lost setAdd rv.poison }
      some (if groupCounts (groupAt s c.group) then killGroup s c.group c.pc else s)
  | _, _ => none

/-- The sector operations that a core's copy engine has in flight: at most 128 (R189). -/
def engineLoad (s : State) (p core : Nat) : Nat :=
  (s.wgs.filter fun w => w.part == p && w.core == core).foldl (fun n w =>
    w.commands.foldl (fun n c => n + c.ops.length) n) 0
  + (s.flight.filter fun w => w.piece.isSome && w.id == w.iid && w.part == p && w.core == core && !w.applied).length

/-- The engine starts on source sector k: a global one is asked for with a packet, another is read at once. -/
def startSector (s : State) (wi : Nat) (c : Command) (k : Nat) (x : Nat × Nat × Nat) : State :=
  let w := wgAt s wi
  let addr (x : Nat × Nat × Nat) : Nat := c.src + x.1 * c.sstride + x.2.1
  let a := addr x
  match copySrc c.kind with
  | .global =>
    if !(lateWalkDue s wi a c.cls) then s
    else
    match engineLoc s (.cluster (w.core / 8)) w.part w.core c.user a .read with
    | .error (code, f) => failCommand (lateWalk s wi a c.cls) wi c.id code f a
    | .ok l =>
      let (id, s) := fresh (lateWalk s wi a c.cls)
      let o : SectorOp :=
        { id := id, k := k, loc := l, slack := packetSlack s wi c, stage := startStage s w.part l, va := a
          peerInc := peerIncOf s w.part w.core l (BitVec.ofNat 64 a) }
      modCommand s wi c.id fun c => { c with ops := c.ops ++ [o] }
  | _ => (pieceErrors s wi c a (x.2.2 - x.2.1)).getD
      (sectorCame s wi c.id k ((readSpans c k).map fun x => localRead s wi c (addr x) (x.2.2 - x.2.1)))

/-- COPY_SECTOR (R189, R190, R307, R320): the engine of a started command asks for source sector k; or takes its bytes,
which have come, and writes every destination sector they complete; or ends the command, which has nothing left to do. An
accumulator side waits for the MMAs that happen before the command (R208). -/
def execCopySector (wg id k : Nat) (s : State) : Out :=
  let w := wgAt s wg
  match w.commands.find? fun c => c.id == id && c.started with
  | none => .next s
  | some c =>
    if (partAt s w.part).frozen || clockGated s w.part w.core
        || (accSide c.kind && (mmasOf s wg).any fun m => c.after.contains m.id) then .next s
    else if c.failed.isSome || copyDone c then .next (finishCopy s wg id)
    else match c.ops.find? (·.k == k), (if c.done.contains k then [] else readSpans c k) with
      | some o, x0 :: rest =>
        if o.stage != .served then .next s
        else
          let s := if remaining o.slack s.now == 0 then countLate s wg else s
          let s := recalled s (physCluster s w.part (w.core / 8)) o.loc
          let addr (x : Nat × Nat × Nat) : Nat := c.src + x.1 * c.sstride + x.2.1
          let s := if ownsLoc s w.part o.loc then sectorCame s wg id k ((x0 :: rest).map fun x =>
              sectorRead s wg { o.loc with addr := o.loc.addr + (addr x - addr x0) } (x.2.2 - x.2.1))
            else failCommand s wg id 1 (some (o.loc.addr / 65536)) o.va
          .next (finishCopy s wg id)
      | none, x :: _ =>
        if 128 ≤ engineLoad s w.part w.core then .next s
        else .next (finishCopy (startSector s wg c k x) wg id)
      -- a destination sector may have had to wait for its page's walk
      | _, [] => .next (finishCopy ((sourceRows c k).foldl (fun s r => (readySectors c r).foldl (writeSector wg id) s) s) wg id)
where
  /-- The first row of a source sector. -/
  sourceRows (c : Command) (k : Nat) : List Nat := ((readSpans c k).map (·.1)).take 1

/-! ## Chase (R191 to R193) -/

/-- The recipe at s[A] of the lowest quad (Table 10.8): none where it breaks R191. -/
def chaseRec (v : Env) : Option Recipe :=
  let r (i : Nat) : Nat := (sGet v.gr v.q0 (v.a + i)).toNat
  let c : Recipe :=
    { nbase := r 0 + 2 ^ 32 * r 1, nstride := r 2, flagoff := r 3 / 65536, degoff := r 3 % 65536
      stop := r 4 / 2 ^ 28 % 2 == 1, hops := r 4 / 2 ^ 24 % 16, flagbit := r 4 / 2 ^ 16 % 32, adjoff := r 4 % 65536
      view := r 5, ncount := r 6 }
  let pow2 := (List.range 12).any fun i => c.nstride == 2 ^ (i + 5)
  if r 4 / 2 ^ 29 == 0 && r 4 / 2 ^ 21 % 8 == 0 && r 7 == 0 && c.nbase % 32 == 0 && pow2 && 1 ≤ c.hops && c.hops ≤ 8
      && c.degoff % 4 == 0 && c.degoff + 4 ≤ c.nstride && c.flagoff % 4 == 0 && c.flagoff + 4 ≤ c.nstride
      && c.adjoff % 8 == 0 && c.adjoff + 8 ≤ c.nstride then some c else none

/-- CHDEF (R191). DESIGN CHOICE (log 61): its own code 5 comes after the checks 6 to 8 of R35. -/
def chdefFx (v : Env) : Eff :=
  match chaseRec v with
  | none => v.allFault 5 v.pc
  | some c => { s := modPart v.s v.gr.part fun pt => { pt with recipes := (v.d, c) :: pt.recipes.filter (·.1 != v.d) } }
def execChdef (d a b : Byte) (s : State) : Out := issue1 0xB2 d a b chdefFx s

/-- CHASE (R192): one walk and one miss-table entry per lane. DESIGN CHOICE (log 61): its own code 5 comes after the checks 6 to 8 of
R35. -/
def chaseFx (v : Env) : Eff :=
  let ls := v.realLanes
  match (partAt v.s v.gr.part).recipes.find? (·.1 == v.b) with
  | none => { s := v.s, faults := sameFault v.lanes 5 v.pc }
  | some (_, c) =>
    if missFree v.s v.gr.part v.gr.core < ls.length then { s := v.s, flow := .yield }
    else
      let (iid, s) := fresh v.s
      { s := each ls (fun l s =>
          let (id, s) := fresh s
          let node := (vGet v.gr l v.a).toNat
          let r : Req :=
            { id := id, iid := iid, what := .walk, lane := l, lanes := BitVec.twoPow 64 l, base := v.d, regs := 11
              va := BitVec.ofNat 64 (c.nbase + node * c.nstride), slack := slackOf s v.g (Table.slkOf (modeOf v.gr (l / 4)))
              stage := .cluster }
          let w : Chase :=
            { id := id, lane := l, recipe := c, node := node, seed := (vGet v.gr l (v.a + 1)).toNat
              user := !(isSuper s v.g v.e) }
          modGroup s v.g fun gr => { gr with reqs := gr.reqs ++ [r], chases := gr.chases ++ [w] }) s }
def execChase (d a b : Byte) (s : State) : Out := issue1 0xB1 d a b chaseFx s

/-- What one read of a walk comes to. -/
inductive HopRead where
  | bytes (b : List Byte)
  | wait                                  -- what keeps a load of its lane waits, or the seal of the view's generation
  | cross (sp : Space) (inc : Nat)        -- it goes to another device first: to which, the incarnation it carries
  | bad (code : Nat) (frame : Option Nat)
  | poisoned
deriving DecidableEq, Repr

/-- A walk's read of n bytes at an address, a relaxed load of its lane (R192, R317, R331): it waits for the lane's stores to the
location, and for those that its cluster has seen, to reach their home (R150, R154), and goes to another device as a request does
(R281). -/
def hopRead (s : State) (g : Nat) (c : Chase) (va n : Nat) : HopRead :=
  let gr := groupAt s g
  let p := gr.part
  let pt := partAt s p
  let live := c.recipe.view == 0xFFFFFFFF || c.recipe.view == pt.gencur
  if va % n != 0 then .bad 9 none
  else match engineLoc s (.lane g c.lane c.id) p gr.core c.user va .read with
    | .error (code, f) => .bad code f
    | .ok l =>
      if !live && (!(hasSlice l) || !(pt.gens.any (·.num == c.recipe.view))) then .bad 1 none
      else if startStage s p l == .link && !(c.links.contains l.space) then .cross l.space (peerIncOf s p gr.core l (BitVec.ofNat 64 va))
      else if ((unperformed s g).any fun w => w.lane == c.lane && w.id < c.id && overlaps w.loc w.size l n) || seenHereOnly s g l n
          || loadHeld s g { id := c.id, lane := c.lane, what := .mem l n false } l n then .wait
      else if live then
        if spanPoisoned s l n then .poisoned else .bytes (homeBytes s l n)
      else if !(isSealed s p c.recipe.view) then .wait
      else if viewPoisoned s p c.recipe.view (frameKind l) l.addr n then .poisoned
      else .bytes ((List.range n).map fun i => viewGen s p c.recipe.view (frameKind l) (l.addr + i))

/-- What a walk does next: waits, takes a hop to a node, or stops with its eleven words. -/
inductive Hopped where
  | wait
  | cross (sp : Space) (inc : Nat)
  | node (n : Nat)
  | stop (ws : List Word) (poisoned : Bool) (foreign : Option (Nat × Nat)) (mark : Nat)
deriving DecidableEq, Repr

def word (n : Nat) : Word := BitVec.ofNat 32 n

/-- The results of a walk that stops on a fault (R193); a lost peer leaves zeros and its mark (R245). -/
def hopFault (c : Chase) (va code : Nat) (frame : Option Nat) (poisoned : Bool) : Hopped :=
  if code == 13 then .stop (List.replicate 11 0) false none 13
  else .stop ([word c.node, word c.h, 3, word va, word (va / 2 ^ 32), word code] ++ List.replicate 5 0) poisoned
    (frame.map fun f => (va, f)) 0

/-- Continues with the bytes of a read, or ends the walk there. -/
def hopWith (s : State) (g : Nat) (c : Chase) (va n : Nat) (k : List Byte → Hopped) : Hopped :=
  let va := va % 2 ^ 64
  match hopRead s g c va n with
  | .bytes b => k b
  | .wait => .wait
  | .cross sp inc => .cross sp inc
  | .bad code f => hopFault c va code f false
  | .poisoned => hopFault c va 1 none true

/-- The neighbour that a walk takes of a node of some degree (R192). -/
def Chase.pick (c : Chase) (deg : Nat) : Nat := c.seed / 2 ^ (4 * c.h) % 16 * deg / 16

/-- The status with which a walk stops at the record it has come to, of some degree and flag word; none where it goes on (R192). -/
def Chase.stops (c : Chase) (deg flag : Nat) : Option Nat :=
  if c.recipe.stop && flag / 2 ^ c.recipe.flagbit % 2 == 1 then some 2
  else if c.h == c.recipe.hops then some 0
  else if deg == 0 then some 1
  else none

/-- One turn of the loop of R192. -/
def hop (s : State) (g : Nat) (c : Chase) : Hopped :=
  let r := c.recipe
  let rec_ := c.rec_
  if r.ncount != 0 && r.ncount ≤ c.node then hopFault c (rec_ % 2 ^ 64) 1 none false
  else
    hopWith s g c rec_ 32 fun first =>
    hopWith s g c (rec_ + r.degoff) 4 fun deg =>
    hopWith s g c (rec_ + r.flagoff) 4 fun flag =>
    hopWith s g c (rec_ + r.adjoff) 8 fun adj =>
      match c.stops (leNat deg) (leNat flag) with
      | some status => .stop ([word c.node, word c.h, word status] ++ wordsOf 32 (leNat first)) false none 0
      | none => hopWith s g c (leNat adj + 4 * c.pick (leNat deg)) 4 fun next => .node (leNat next)

/-- The reads of a list in order, each an address and a size, up to and with the first that brings no bytes. -/
def hopReads (s : State) (g : Nat) (c : Chase) : List (Nat × Nat) → List (Nat × HopRead)
  | [] => []
  | (va, n) :: rest =>
    let got := hopRead s g c (va % 2 ^ 64) n
    (va % 2 ^ 64, got) :: (match got with | .bytes _ => hopReads s g c rest | _ => [])

/-- The reads of a walk's turn (R192): of the record, unless NCOUNT stops the walk before it, and of the neighbour, where the walk
goes on. -/
def hopTurn (s : State) (g : Nat) (c : Chase) : List (Nat × HopRead) :=
  let r := c.recipe
  if r.ncount != 0 && r.ncount ≤ c.node then []
  else
    let here := hopReads s g c [(c.rec_, 32), (c.rec_ + r.degoff, 4), (c.rec_ + r.flagoff, 4), (c.rec_ + r.adjoff, 8)]
    match here with
    | [(_, .bytes _), (_, .bytes deg), (_, .bytes flag), (_, .bytes adj)] =>
      if (c.stops (leNat deg) (leNat flag)).isSome then here
      else here ++ hopReads s g c [(leNat adj + 4 * c.pick (leNat deg), 4)]
    | _ => here

/-- The addresses that a walk's turn has translated. -/
def hopVas (s : State) (g : Nat) (c : Chase) : List Nat :=
  ((hopTurn s g c).filter fun x => match x.2 with | .bad 9 _ => false | _ => true).map (·.1)

/-- The addresses that a walk's turn reads: where a read stops on a fault, or waits, nothing is read. -/
def hopTouched (s : State) (g : Nat) (c : Chase) : List Nat :=
  ((hopTurn s g c).filter fun x => match x.2 with | .bytes _ | .poisoned => true | _ => false).map (·.1)

/-- What a walk's turn does beside its reads: the lines that it reads are recalled from the clusters that own them (R148); where it
has pages translated, that read is an acquire (R240). -/
def hopSeen (s : State) (g : Nat) (c : Chase) (k : Slack) : State :=
  let gr := groupAt s g
  let v : Viewer := .lane g c.lane c.id
  let vas := hopVas s g c
  let locs := (hopTouched s g c).filterMap fun va => (engineLoc s v gr.part gr.core c.user va .read).toOption
  let s' := locs.foldl (fun s l => recalled s (physCluster s gr.part (gr.core / 8)) l) s
  let pages := (distinct (vas.map (· / 65536))).filter fun page => page < 2 ^ 36 && (cached s gr.part gr.core page).isNone
  if pages.isEmpty then s' else noteAcquire (pages.foldl (walkedFor v gr.part gr.core gr.wg k) s') g

/-- Whether the walkers serve the walks of the pages that a turn needs now (R268). -/
def hopDue (s : State) (g : Nat) (c : Chase) (k : Slack) : Bool :=
  let gr := groupAt s g
  (hopVas s g c).all fun va => walkDue s gr.part gr.core (va / 65536) k

/-- CHASE_HOP (R192, R193): a walk that its engine serves takes a hop, and waits at the engine of its next record; or goes to
another device, to read there; or stops with its result. -/
def execChaseHop (g id : Nat) (s : State) : Out :=
  let gr := groupAt s g
  match gr.reqs.find? fun r => r.id == id && r.what == .walk && r.data.isNone && r.stage == .served
      && !(partAt s gr.part).frozen with
  | none => .next s
  | some r =>
    match gr.chases.find? (·.id == id) with
    | none => .next s
    | some c =>
      match captureLane s g c.lane id with
      | none => .next s
      | some s =>
        if !(hopDue s g c r.slack)
            || (unperformed s g).any fun w => w.id < id && w.lane == c.lane && !isStore w.op && w.acq then .next s
        else
        let change (s : State) (f : Chase → Chase) : State :=
          modGroup s g fun gr => { gr with chases := gr.chases.map fun x => if x.id == id then f x else x }
        match hop s g c with
          | .wait => .next s
          | .cross sp inc =>
            .next (fillReq (change s fun x => { x with links := sp :: x.links }) g id fun q => { q with stage := .link, peerInc := inc })
          | .node n =>
            let s := change (hopSeen s g c r.slack) fun x => { x with node := n, h := x.h + 1, links := [] }
            .next (fillReq s g id fun q => { q with stage := .chase })
          | .stop ws bad foreign mark =>
            let s := hopSeen s g c r.slack
            let s := match foreign with
              | some (va, f) => ringForeign s g (BitVec.ofNat 64 va) f
              | none => if mark == 13 then noteWalk .unit gr.part (BitVec.ofNat 64 c.rec_) s else s
            let s := modGroup s g fun gr => { gr with chases := gr.chases.filter (·.id != id) }
            let va := if mark == 13 then r.va else BitVec.ofNat 64 c.rec_
            .next (fillReq s g id fun q => { q with data := some ws, poisoned := bad, mark := mark, va := va })

end Sys2Proof.Machine
end

