-- ==== Sys2Proof/Machine/Launch.lean ====
section
/-!
DEFINITION. LAUNCH (R221 to R224, R375), the launch queue, the completion record (R233 to R236, R321) and cancellation.
-/

namespace Sys2Proof.Machine

/-! ## The launch record (Table 14.1) -/

/-- n bytes at an offset of a byte list, as a number. -/
def fieldAt (b : List Byte) (o n : Nat) : Nat := leNat ((b.drop o).take n)

/-- The record that 128 bytes hold. -/
def parseRec (b : List Byte) : LaunchRec :=
  let f := fieldAt b 0x23 1
  { entry := BitVec.ofNat 64 (fieldAt b 0x00 8), args := BitVec.ofNat 64 (fieldAt b 0x08 8)
    gx := fieldAt b 0x10 4, gy := fieldAt b 0x14 4, gz := fieldAt b 0x18 4
    wgsz := fieldAt b 0x1C 2, regs := fieldAt b 0x1E 2
    apref := fieldAt b 0x20 1, alow := fieldAt b 0x21 1, ahigh := fieldAt b 0x22 1
    movable := f % 2 == 1, snap := f / 2 % 2 == 1, coop := f / 4 % 2 == 1, flagsRsvd := f / 8
    gangp := fieldAt b 0x24 2, gangf := fieldAt b 0x26 2, pool := fieldAt b 0x28 4
    accrows := fieldAt b 0x2C 2, guards := fieldAt b 0x2E 1, prio := fieldAt b 0x2F 1
    spill := fieldAt b 0x30 4, fhv := fieldAt b 0x34 4
    slack := (List.range 8).map fun i => fieldAt b (0x38 + 2 * i) 2
    deps := (List.range 4).map fun i => BitVec.ofNat 64 (fieldAt b (0x48 + 8 * i) 8)
    crec := BitVec.ofNat 64 (fieldAt b 0x68 8), rsvd := fieldAt b 0x70 16 }

/-- P: the pool bytes of a workgroup (R136). -/
def poolP (r : LaunchRec) : Nat := (r.pool + 1023) / 1024 * 1024
/-- Workgroups of a grid. -/
def gridSize (r : LaunchRec) : Nat := r.gx * r.gy * r.gz
/-- Quads of a workgroup (R91). -/
def quadCount (wgsz : Nat) : Nat := (wgsz + 3) / 4
/-- Bytes of the context reserve in front of the spill areas: a save block for each logical cluster (R229). -/
def saveBytes (c : PartCfg) : Nat := c.ceil * 32 * 2 ^ 20
/-- Bytes of a cluster's pool (R136). -/
def poolBytes : Nat := 4 * 2 ^ 20

/-- Whether an address has a valid translation of its page, to a frame of the partition. -/
def translates (s : State) (p : Nat) (va : DWord) : Bool :=
  (unitSource s p va).isSome

/-- Workgroups that a core with all its resources free holds at aperture a (R227). -/
def coreHolds (r : LaunchRec) (a : Nat) : Nat :=
  let most (limit n : Nat) : Nat := if n == 0 then 2 ^ 32 else limit / n
  min (min (min (most (256 * (256 / r.regs)) (quadCount r.wgsz)) (most (threadsOf a) r.wgsz))
    (min (most 128 (groupsAtWidth r.wgsz (widthOf a))) (most 32 r.guards))) (if r.accrows == 0 then 2 ^ 32 else 4)

/-- Whether an empty cluster can hold n workgroups of a grid at some aperture (R221). -/
def emptyHolds (c : PartCfg) (r : LaunchRec) (n : Nat) : Bool :=
  decide (n * poolP r ≤ poolBytes) && decide (saveBytes c + n * (frameRoom r + spillRoom r) ≤ c.ctxSize) &&
    (List.range 8).any fun a => r.alow ≤ a && a ≤ r.ahigh && n ≤ 8 * coreHolds r a

/-- The fields of a record with their offsets, by rising offset, and whether each meets its Meaning (R375). -/
def recordChecks (s : State) (p : Nat) (r : LaunchRec) : List (Nat × Bool) :=
  let acc := (r.wgsz + 7) / 8 * 8
  let slack := (List.range 8).map fun i => (0x38 + 2 * i, decide (nth 0 r.slack i < 4096))
  let deps := (List.range 4).map fun i =>
    let d := nth 0 r.deps i
    (0x48 + 8 * i, d == 0 || (d.toNat % 128 == 0 && translates s p d))
  [(0x00, r.entry.toNat % 128 == 0 && decide (r.entry.toNat < 2 ^ 52)),
   (0x10, r.gx != 0 && r.gy != 0 && r.gz != 0 && decide (gridSize r < 2 ^ 32)),
   (0x1C, decide (1 ≤ r.wgsz) && decide (r.wgsz ≤ 256)),
   (0x1E, decide (8 ≤ r.regs) && decide (r.regs ≤ 256) && r.regs % 8 == 0),
   (0x20, decide (r.alow ≤ r.apref) && decide (r.apref ≤ r.ahigh)),
   (0x21, decide (1 ≤ r.alow) && decide (r.alow ≤ r.apref)),
   (0x22, decide (1 ≤ r.ahigh) && decide (r.ahigh ≤ 7)),
   (0x23, r.flagsRsvd == 0 && (!r.snap || (cfgOf s p).snapGrant)),
   (0x24, r.coop || r.gangp != 0),
   (0x26, r.coop || (decide (1 ≤ r.gangf) && decide (r.gangf ≤ r.gangp) && decide (r.gangf * poolP r ≤ poolBytes))),
   (0x28, decide (r.pool ≤ poolBytes)),
   (0x2C, r.accrows == 0 || (r.accrows % 8 == 0 && decide (acc ≤ r.accrows) && decide (r.accrows ≤ 512))),
   (0x2E, decide (r.guards ≤ 32)), (0x2F, decide (r.prio ≤ 3)),
   (0x30, r.spill % 64 == 0 && decide (r.spill ≤ 65536)), (0x34, decide (r.fhv ≤ 15))]
  ++ slack ++ deps ++ [(0x68, r.crec != 0 && r.crec.toNat % 128 == 0), (0x70, r.rsvd == 0)]

/-- What makes a record invalid: the DETAIL of its error-ring entry (R375). -/
def recordFlaw (s : State) (p : Nat) (r : LaunchRec) : Option Nat :=
  match (recordChecks s p r).find? fun x => !x.2 with
  | some x => some x.1
  | none =>
    if r.coop then (if emptyHolds (cfgOf s p) r (gridSize r) then none else some 0x101)
    else if emptyHolds (cfgOf s p) r r.gangf then none else some 0x100

/-! ## The completion record (Table 14.2) -/

/-- The lowest and the highest aperture at which a grid ran; 0 for none. -/
def lowAper (gd : Grid) : Nat := gd.ran.headD 0
def highAper (gd : Grid) : Nat := gd.ran.getLastD 0

/-- Where the most core-cycles of a grid fell: one of the apertures at which it ran, whichever. -/
def mainAperture (s : State) (gd : Grid) : Nat := nth 0 gd.ran (Config.mainAper s.tick % max 1 gd.ran.length)

/-- FREQ in kHz (R233): a grid that ran at one aperture without throttled cycles has that aperture's clock (R288); otherwise
the mean lies somewhere up to the fastest clock, and without throttling not below the slowest. -/
def meanClock (s : State) (gd : Grid) : Nat :=
  let kHz (a : Nat) : Nat := if a == 0 then 0 else clockOf a * 10000
  let throttled := (List.range 6).any fun i => Config.throttled s.tick i != 0
  let hi := kHz (lowAper gd)
  let lo := if throttled then 0 else kHz (highAper gd)
  lo + Config.freq s.tick % (hi - lo + 1)

/-- A counter of n bytes, saturated (R233). -/
def counter (n x : Nat) : List Byte := leBytes n (min x (2 ^ (8 * n) - 1))

/-- The 128 bytes of a grid's final record (R235 step 3); the throttle counters and ENERGY are free values, FREQ
within its range. -/
def finalRecord (s : State) (gd : Grid) (status : Nat) : List Byte :=
  leBytes 4 status ++ leBytes 4 (if gd.cores == 0 then 1 else 0) ++ leBytes 8 gd.start ++ leBytes 8 s.now
    ++ counter 8 (Config.energy s.tick) ++ leBytes 4 (meanClock s gd)
    ++ [BitVec.ofNat 8 (mainAperture s gd), BitVec.ofNat 8 (lowAper gd), BitVec.ofNat 8 (highAper gd), 0]
    ++ ((List.range 6).flatMap fun i => counter 8 (Config.throttled s.tick i))
    ++ counter 4 gd.wgdone ++ counter 4 gd.faults ++ counter 8 gd.late ++ counter 4 gd.sovf ++ counter 4 gd.deadLanes
    ++ leBytes 16 gd.cores.toNat

/-- The start of a completion record that its grid never ran for: STATUS, CONFIRM 1, since CORES is empty, and START and
END now (R224, R236, R321). -/
def unrunBytes (s : State) (status : Nat) : List Byte :=
  leBytes 4 status ++ leBytes 4 1 ++ leBytes 8 s.now ++ leBytes 8 s.now

/-- Writes the completion record of a grid that never ran. -/
def writeUnrun (s : State) (p : Nat) (r : LaunchRec) (status : Nat) : State :=
  recordWrite s p r.home 0 (unrunBytes s status)

/-- The final STATUS of a grid (R236). -/
def finalStatus (gd : Grid) : Nat := if gd.forced != 0 then gd.forced else if gd.faulted then 3 else 2

/-- Whether a grid has no workgroup left to place or to finish. -/
def gridDone (s : State) (k : Nat) : Bool :=
  let gd := gridAt s k
  !gd.ended && !gd.handlerGroup && gd.finished == gd.placed && (gd.forced != 0 || gd.placed == gd.wgs)

/-- Writes the final record of a grid where a confirmation entry and a frame are free; otherwise the grid waits (R321). -/
def writeFinal (s : State) (k : Nat) : State :=
  let gd := gridAt s k
  let p := gd.part
  let wait (s : State) : State := modPart s p fun pt =>
    { pt with finals := if pt.finals.contains k then pt.finals else pt.finals ++ [k] }
  if (gd.cores != 0 && 4096 ≤ (partAt s p).confirm.length) || !(recordReady s p gd.recd.home) then wait s
  else
    let s := recordWrite s p gd.recd.home 0 (finalRecord s gd (finalStatus gd))
    let s := modGrid s k fun gd => { gd with ended := true }
    modPart s p fun pt =>
      { pt with
        finals := pt.finals.filter (· != k)
        confirm := if gd.cores == 0 then pt.confirm
          else pt.confirm ++ [{ home := gd.recd.home, cores := gd.cores, fin := s.now }] }

/-- The grids of a partition that wait for their final write try again. -/
def flushFinals (s : State) (p : Nat) : State := each (partAt s p).finals (fun k s => writeFinal s k) s

/-- Looks whether a grid is done. -/
def checkGrid (s : State) (k : Nat) : State := if gridDone s k then writeFinal s k else s

/-! ## The launch queue (R224) -/

/-- STATUS of a dependency's record, none where its page has no valid translation. -/
def readStatus (s : State) (p : Nat) (dep : DWord) : Option Nat :=
  if dep == 0 then some 2 else (unitRead s p dep 4).map leNat

/-- Takes entry e out of a partition's launch queue. -/
def dropEntry (s : State) (p e : Nat) : State :=
  modPart s p fun pt => { pt with launchQ := pt.launchQ.eraseIdx e }

/-- Acts on what the dependencies of the entry at e read: a final status other than 2 discards it as skipped. DESIGN CHOICE
(log 62): workgroups of it that are placed already run on, and its record is not written again. -/
def judgeEntry (s : State) (p e : Nat) : State :=
  match (partAt s p).launchQ[e]? with
  | none => s
  | some x =>
    if x.seen.any fun v => v == 3 || v == 4 || v == 5 then
      if recordReady s p x.recd.home then
        let s := match x.grid with
          | some k => modGrid s k fun gd => { gd with ended := true }
          | none => s
        writeUnrun (dropEntry s p e) p x.recd 4
      else s
    else s

/-- Whether dependency k of an entry is to be read again: a store has reached it since, or its STATUS is not the one read. A
final STATUS that could not yet be acted on stays due. -/
def readDue (s : State) (x : LaunchEntry) (k : Nat) : Bool :=
  let v := nth 2 x.seen k
  match nth none x.locs k with
  | none => false
  | some loc => x.due.contains k || leNat (homeBytes s loc 4) != v || v == 3 || v == 4 || v == 5

/-- DEPENDENCY_READ (R224): dependency k of entry e is read again, after a store to it. -/
def execDependencyRead (p e k : Nat) (s : State) : Out :=
  match (partAt s p).launchQ[e]? with
  | none => .next s
  | some x =>
    if 4 ≤ k || !(readDue s x k) then .next s
    else
      let s := noteForeign p (nth 0 x.recd.deps k) s
      match readStatus s p (nth 0 x.recd.deps k) with
      | some v =>
        let s := modPart s p fun pt =>
          { pt with launchQ := upd pt.launchQ e fun y =>
            { y with seen := upd y.seen k fun _ => v, due := setDel k y.due
                     locs := upd y.locs k fun _ => unitSource s p (nth 0 y.recd.deps k) } }
        .next (judgeEntry s p e)
      | none =>
        if !(recordReady s p x.recd.home) then .next s
        else
          let s := ringEntry s p 3 0 x.recd.crec.toNat 0xFFFFFFFF 0 (0x48 + 8 * k)
          .next (judgeEntry (modPart s p fun pt => { pt with launchQ := upd pt.launchQ e fun y =>
            { y with seen := upd y.seen k fun _ => 4 } }) p e)

/-! ## LAUNCH (R222, R223) -/

/-- What a quad's LAUNCH finds: its record, or the fault it takes with FT and the foreign frame met. -/
inductive Submit where
  | rcd (r : LaunchRec)
  | fault (code : Nat) (addr : DWord) (ft : Bool) (foreign : Option Nat)
deriving DecidableEq, Repr

/-- The lane whose view a quad's LAUNCH has: the lowest that executes it. -/
def launchLane (v : Env) (k : Nat) : Nat := (v.act.filter (· / 4 == k)).headD 0

/-- The slack of a quad's LAUNCH. -/
def launchSlack (v : Env) (k : Nat) : Slack := slackOf v.s v.g (Table.slkOf (modeOf v.gr k))

/-- The translation of an address for a LAUNCH: a cache's, or a walk's. -/
def launchWalk (v : Env) (l : Nat) (va : DWord) : Walk :=
  if 2 ^ 52 ≤ va.toNat then .bad false
  else ((cached v.s v.gr.part v.gr.core (pageOf va)).map .leaf).getD (walk v.s (.lane v.g l v.s.nextId) v.gr.part va)

/-- A page that a LAUNCH reads or writes, in its group's mode (R222, R239): its location, or the fault. -/
def launchPage (v : Env) (l : Nat) (va : DWord) (k : Access) : Except Submit Loc :=
  match launchWalk v l va with
  | .leaf lf =>
    let loc := leafLoc v.gr.part lf va
    let c := leafCheck lf (!(isSuper v.s v.g v.e)) k
    if c != 0 then .error (.fault c va false none)
    else if !(ownsLoc v.s v.gr.part loc) then .error (.fault 1 va false (some (loc.addr / 65536)))
    else .ok (replicaLoc v.s v.gr.part k false loc)
  | .bad ft => .error (.fault 1 va ft none)
  | .foreign f => .error (.fault 1 va false (some f))
  | .lostPeer => .error (.fault 13 va false none)

/-- A quad's record, as its lane sees it (R222). -/
def submit (v : Env) (k : Nat) : Submit :=
  let a := sPair v.gr k v.a
  let l := launchLane v k
  if a.toNat % 128 != 0 then .fault 9 a false none
  else match launchPage v l a .read with
    | .error f => f
    | .ok loc =>
      let r := parseRec (laneBytes v.s v.g l v.s.nextId loc 128)
      match launchPage v l r.crec .write with
      | .error f => f
      | .ok _ => .rcd r

/-- The pages of a quad's record and of its completion record are translated for its LAUNCH, each walk an acquire (R240). -/
def launchLate (v : Env) (k : Nat) : State :=
  let walked (s : State) (va : DWord) : State :=
    if 2 ^ 52 ≤ va.toNat || (cached s v.gr.part v.gr.core (pageOf va)).isSome then s
    else noteAcquire (walkedFor (.lane v.g (launchLane v k) s.nextId) v.gr.part v.gr.core v.gr.wg (launchSlack v k) s (pageOf va)) v.g
  let s := walked v.s (sPair v.gr k v.a)
  match submit { v with s := s } k with
  | .rcd r => walked s r.crec
  | .fault _ _ _ _ => s

/-- Whether the walkers serve the walks that a quad's LAUNCH needs now (R268). -/
def launchDue (v : Env) (k : Nat) : Bool :=
  let due (va : DWord) : Bool := walkDue v.s v.gr.part v.gr.core (pageOf va) (launchSlack v k)
  due (sPair v.gr k v.a) && (match submit v k with | .rcd r => due r.crec | .fault _ va _ _ => due va)

/-- Takes a launch-queue entry for a record: the pending record is written, an invalid record is answered at once (R222,
R236), the dependencies are read. -/
def acceptRecord (s : State) (p : Nat) (r : LaunchRec) : State :=
  let r := { r with home := unitTarget s p r.crec }
  let s := (r.deps.filter (· != 0)).foldl (fun s d => noteForeign p d s) (unitWrite s p r.crec (leBytes 128 0))
  match recordFlaw s p r with
  | some off => ringEntry (unitWrite s p r.crec (unrunBytes s 3)) p 3 0 r.crec.toNat 0xFFFFFFFF 0 off
  | none =>
    let (n, s) := fresh s
    let x : LaunchEntry :=
      { recd := r, seen := r.deps.map fun d => (readStatus s p d).getD 0
        locs := r.deps.map fun d => if d == 0 then none else unitSource s p d, order := n }
    let s := modPart s p fun pt => { pt with launchQ := pt.launchQ ++ [x] }
    judgeEntry s p ((partAt s p).launchQ.length - 1)

/-- One quad's LAUNCH with a record: its status and the state after it. -/
def launchQuad (v : Env) (k : Nat) (r : LaunchRec) (s : State) : State :=
  let p := v.gr.part
  let m := maskOf 64 (v.act.filter (· / 4 == k))
  if 16 ≤ (partAt s p).launchQ.length then knownStatus s v.g m (v.d % 16) false
  else knownStatus (acceptRecord s p r) v.g m (v.d % 16) true

/-- The quads of a LAUNCH in ascending order, each reading what the lower ones have written (R222); none where a completion
record's sector waits for a frame, or a walk is not served yet. -/
def launchQuads (v : Env) : List Nat → Eff → Option Eff
  | [], f => some f
  | k :: rest, f =>
    if !(launchDue { v with s := f.s } k) then none
    else
    let f := { f with s := launchLate { v with s := f.s } k }
    match submit { v with s := f.s } k with
    | .rcd r =>
      if 16 ≤ (partAt f.s v.gr.part).launchQ.length || unitReady f.s v.gr.part r.crec 128 then
        launchQuads v rest { f with s := launchQuad v k r f.s }
      else none
    | .fault c a ft foreign =>
      let who := v.act.filter (· / 4 == k)
      launchQuads v rest
        { f with
          s := match foreign with | some fr => ringForeign f.s v.g a fr | none => noteWalk .unit v.gr.part a f.s
          faults := f.faults ++ sameFault who c a
          ft := if ft then f.ft ||| maskOf 64 who else f.ft }

/-- LAUNCH (R222, R223): each quad with a lane that is not a helper submits its record. It waits until what precedes it is
performed (the release of R223); a frozen partition accepts none (R302). -/
def launchFx (v : Env) : Eff :=
  let quads := v.quads.filter fun k => v.act.any fun l => l / 4 == k && !(laneAt v.gr l).helper
  if quads.isEmpty then { s := v.s }
  else if (partAt v.s v.gr.part).frozen then { s := v.s, flow := .yield }
  else match captureAll v.s v.g with
    | none => { s := v.s, flow := .yield }
    | some s =>
      if !(groupAcked s v.g) || !(clusterPerformed s v.g) then { s := s, flow := .yield }
      else (launchQuads v quads { s := s }).getD { s := s, flow := .yield }
def execLaunch (d a b : Byte) (s : State) : Out := issue1 0x17 d a b launchFx s

/-! ## Retirement (R121, R235, R236) -/

/-- Whether a workgroup has finished: no lane left, or halted by a double fault or a cancellation (R236). -/
def wgFinished (s : State) (w : Nat) : Bool :=
  wgEnded s w || (wgAt s w).groups.any fun g => (groupAt s g).stopped

/-- Whether nothing that a workgroup has begun is outstanding: its store queues, its engine commands and MMAs. -/
def wgQuiet (s : State) (w : Nat) : Bool :=
  (wgAt s w).groups.all (groupAcked s) && (wgAt s w).commands.isEmpty && (wgAt s w).macq.isNone
    && !(s.cores.any fun c => c.mmas.any fun m => m.wg == w)

/-- Groups that ended otherwise than by EXIT or death. -/
def wgHalted (s : State) (w : Nat) : Bool :=
  (wgAt s w).broken || (wgAt s w).groups.any fun g => (groupAt s g).stopped

/-- Releases everything that a workgroup was granted; its requests still return, and are counted (R253). A cluster is kept for a
movable grid while a workgroup of one is on it (R227). -/
def releaseWg (s : State) (w : Nat) : State :=
  let wg := wgAt s w
  let s := each wg.groups (fun g s => modGroup s g fun gr =>
    { gr with gone := true, splits := [], regions := [], chases := [], frame := none, waiting := [] }) s
  let s := modWg s w fun x =>
    { x with retired := true, reserv := none, scale := [], errScale := [], guards := [], circuits := x.circuits.map fun _ => {} }
  let s := modGang s wg.gang fun gg =>
    if gg.wgs.all fun i => (wgAt s i).retired then { gg with retired := true, pool := [], poisonPool := [] } else gg
  let c := wg.core / 8
  let rest := wgsOnCluster s wg.part c
  modCluster s (physCluster s wg.part c) fun x =>
    { x with connected := x.connected && !rest.isEmpty
             movable := x.movable && rest.any fun w => (gridAt s (wgAt s w).grid).recd.movable }

/-- WORKGROUP_RETIREMENT (R121, R235): a finished workgroup with nothing outstanding releases its grants; the last one of
its grid has the final record written. A frozen partition's workgroups stay resident for its dump (R264, R302). -/
def execWorkgroupRetirement (wg : Nat) (s : State) : Out :=
  let w := wgAt s wg
  let gd := gridAt s w.grid
  if wg < s.wgs.length && !(partAt s w.part).frozen && !w.retired && wgFinished s wg && wgQuiet s wg then
    let whole := !(wgHalted s wg)
    let s := releaseWg s wg
    let s := modGrid s w.grid fun gd =>
      { gd with finished := gd.finished + 1, wgdone := if whole then gd.wgdone + 1 else gd.wgdone
                ended := gd.ended || gd.handlerGroup }
    .next (checkGrid s w.grid)
  else .next (flushFinals s gd.part)

/-! ## Cancellation (R236) -/

/-- Halts the groups of a workgroup for good: its held commands are discarded, what has started completes. -/
def haltWg (s : State) (w : Nat) : State :=
  let s := each (wgAt s w).groups (fun g s => modGroup s g fun gr =>
    { gr with stopped := true, waiting := [], splits := gr.splits.map fun sp => { sp with halted := sp.valid } }) s
  modWg s w fun x => { x with commands := x.commands.filter (·.started), macq := none }

/-- The workgroups of a grid that have not retired. -/
def gridWgs (s : State) (k : Nat) : List Nat := positions (fun w => w.grid == k && !w.retired) s.wgs

/-- Ends a grid from outside with a final STATUS: no more of it is placed, its workgroups halt (R236). -/
def endGrid (s : State) (k status : Nat) : State :=
  let s := modGrid s k fun gd => { gd with forced := status }
  checkGrid (each (gridWgs s k) (fun w s => haltWg s w) s) k

/-- CANCELLATION (R236): system software cancels the queue entry or grid of a completion record. -/
def execCancellation (p crec : Nat) (s : State) : Out :=
  let va := BitVec.ofNat 64 crec
  let grid := (positions (fun (gd : Grid) =>
    gd.part == p && !gd.handlerGroup && !gd.ended && gd.forced == 0 && gd.recd.crec == va) s.grids).head?
  match (partAt s p).launchQ.findIdx? fun x => x.recd.crec == va, grid with
  | some e, none =>
    let r := ((partAt s p).launchQ.getD e { recd := {} }).recd
    if recordReady s p r.home then .next (writeUnrun (dropEntry s p e) p r 5) else .next s
  | some e, some k => .next (endGrid (dropEntry s p e) k 5)
  | none, some k => .next (endGrid s k 5)
  | none, none => .next s

end Sys2Proof.Machine
end

