-- ==== Sys2Proof/Machine/Placement.lean ====
section
/-!
DEFINITION. Host messages (R217 to R219), handler groups (R220, R279), the distributor (R225 to R229) and the jets (R230
to R232).
-/

namespace Sys2Proof.Machine

/-! ## What a core and a cluster have free (R93, R227) -/

/-- The workgroups that hold resources of a core. -/
def wgsOnCore (s : State) (p core : Nat) : List Nat :=
  positions (fun w => w.part == p && w.core == core && !w.retired) s.wgs

/-- Words in use in each of a core's 256 register slices. -/
def sliceLoads (s : State) (p core : Nat) : List Nat := (List.range 256).map (sliceUse s p core)

/-- The first slice of a column with room for a quad. -/
def sliceFor (loads : List Nat) (col regs : Nat) : Option Nat :=
  (firstFrom 8 fun i => nth 0 loads (8 * col + i) + regs ≤ 256).map (8 * col + ·)

/-- Slices for n quads from column base b, in quad order; none where they do not fit (R93). -/
def slicesFrom (loads : List Nat) (b regs : Nat) : Nat → Nat → Option (List Nat)
  | 0, _ => some []
  | n + 1, k =>
    match sliceFor loads ((b + k) % 32) regs with
    | none => none
    | some j => (slicesFrom (upd loads j (· + regs)) b regs n (k + 1)).map (j :: ·)

/-- Words in use in a column. -/
def columnLoad (loads : List Nat) (col : Nat) : Nat := ((loads.drop (8 * col)).take 8).foldl (· + ·) 0

/-- The column bases in the order tried: the least loaded first, and among equals one that follows a fuller column. -/
def baseOrder (loads : List Nat) : List Nat :=
  let key (b : Nat) : Nat :=
    2 * columnLoad loads b + (if columnLoad loads b < columnLoad loads ((b + 31) % 32) then 0 else 1)
  sortBy (fun x y => key x < key y || (key x == key y && x ≤ y)) (List.range 32)

/-- Slices for the quads of a workgroup on a core. -/
def slicesFor (s : State) (p core : Nat) (r : LaunchRec) : Option (List Nat) :=
  let loads := sliceLoads s p core
  (baseOrder loads).findSome? fun b => slicesFrom loads b r.regs (quadCount r.wgsz) 0

/-- The counts of R227: groups, threads, guard slots, matrix workgroups, no growth pending; the core takes placements. -/
def coreAdmits (s : State) (p core a : Nat) (r : LaunchRec) : Bool :=
  let ws := wgsOnCore s p core
  let gs := groupsOnCore s p core
  let sum (f : Workgroup → Nat) : Nat := ws.foldl (fun n w => n + f (wgAt s w)) 0
  let c := coreAt s p core
  gs.length + groupsAtWidth r.wgsz (widthOf a) ≤ 128
    && decide (sum (·.wgsz) + r.wgsz ≤ threadsOf a)
    && decide (sum (·.guards.length) + r.guards ≤ 32)
    && (r.accrows == 0 || decide ((ws.filter fun w => (gridAt s (wgAt s w).grid).recd.accrows != 0).length < 4))
    && !(gs.any fun g => (groupAt s g).splits.any fun sp => sp.valid && sp.st == .atRgrow)
    && !c.draining && !c.scanning

/-- The lowest place for n bytes between used ranges, at a multiple of a unit. -/
def firstGap (unit : Nat) (used : List (Nat × Nat)) (lo hi n : Nat) : Option Nat :=
  let starts := sortBy (· ≤ ·) ((lo :: used.map fun u => u.1 + u.2).map fun b => (b + unit - 1) / unit * unit)
  starts.find? fun b => lo ≤ b && b + n ≤ hi && !(used.any fun u => u.1 < b + n && b < u.1 + u.2)

/-- A place for a gang's pool area in its cluster's pool (R136, R227). -/
def poolPlace (s : State) (p c bytes : Nat) : Option Nat :=
  let used := (s.gangs.filter fun gg => gg.part == p && gg.cluster == c && !gg.retired && gg.p != 0).map fun gg =>
    (gg.poolBase, gg.size * gg.p)
  if bytes == 0 then some 0 else firstGap 1024 used 0 poolBytes bytes

/-- The highest place for n bytes, a number of units, between used ranges, at a multiple of the unit. -/
def lastGap (unit : Nat) (used : List (Nat × Nat)) (lo hi n : Nat) : Option Nat :=
  let ends := sortBy (fun x y => y ≤ x) ((hi :: used.map (·.1)).map fun e => e / unit * unit)
  (ends.find? fun e => lo + n ≤ e && e ≤ hi && !(used.any fun u => u.1 < e && e - n < u.1 + u.2)).map (· - n)

/-- Places for a workgroup's trap frames, from below, and its spill areas, from above, in the context reserve: both kinds lie
close, so that the reserve holds all that its bytes allow (R221, R229, R249). -/
def reservePlace (s : State) (p : Nat) (r : LaunchRec) : Option (Nat × Nat) :=
  let ws := s.wgs.filter fun w => w.part == p && !w.retired
  let base := (cfgOf s p).ctxBase
  let used := (ws.flatMap fun w =>
    let x := (gridAt s w.grid).recd
    [(base + w.reserve, frameRoom x), (base + w.spillAt, spillRoom x)]).filter (·.2 != 0)
  let lo := base + saveBytes (cfgOf s p)
  let hi := base + (cfgOf s p).ctxSize
  (firstGap 128 used lo hi (frameRoom r)).bind fun f =>
    (lastGap 64 ((f, frameRoom r) :: used) lo hi (spillRoom r)).map fun x => (f - base, x - base)

/-! ## Forming a workgroup (R91, R92, R229) -/

/-- Registers from 0 on. -/
def regCells (l : List Word) : Cells Word := ((List.range l.length).zip l).foldl (fun c x => cellPut 0 x.1 x.2 c) []

/-- What a workgroup starts with: its sequencer registers from s0, and each thread's vector registers from v0. -/
structure Seed where
  seq : List Word
  vec : Nat → List Word

/-- Quad k of a workgroup of n threads at its start. -/
def startQuad (r : LaunchRec) (seed : Seed) (k slice : Nat) : Quad :=
  { q := k, s := regCells seed.seq, alloc := r.regs, slice := slice
    lanes := (List.range 4).map fun j =>
      let t := 4 * k + j
      { v := regCells (seed.vec t), helper := decide (r.wgsz ≤ t) } }

/-- Group num of a workgroup at its start: one split that holds every quad. -/
def startGroup (p wg num core slot : Nat) (sup : Bool) (entry : DWord) (quads : List Quad) (now : Nat) : Group :=
  let n := 4 * quads.length
  let sp : Split :=
    { valid := true, qmask := maskOf 16 (List.range quads.length), pc := entryPc entry, act := maskOf 64 (List.range n)
      arrive := [{ lanes := maskOf 64 (List.range n), fpc := entryPc entry, next := entryPc entry + 4, slot0 := true }]
      age := now }
  { part := p, wg := wg, num := num, core := core, slot := slot, super := sup, quads := quads
    splits := sp :: List.replicate 8 {} }

/-- Places one workgroup of a grid on a core; none where it does not fit. -/
def placeWg (p core a grid gang pos : Nat) (wgid : Word) (sup : Bool) (seed : Seed) (s : State) : Option State :=
  let r := (gridAt s grid).recd
  if !(coreAdmits s p core a r) then none
  else match slicesFor s p core r, reservePlace s p r with
    | some slices, some res =>
      let wg := s.wgs.length
      let base := s.groups.length
      let quads := ((List.range slices.length).zip slices).map fun x => startQuad r seed x.1 x.2
      let parts := chunks (widthOf a / 4) 64 quads
      let slots := freeSlots s p core []
      let gs := ((List.range parts.length).zip parts).map fun x =>
        startGroup p wg x.1 core (nth 0 slots x.1) sup r.entry x.2 s.tick
      let w : Workgroup :=
        { part := p, grid := grid, gang := gang, pos := pos, wgid := wgid, wgsz := r.wgsz, core := core, aper := a
          groups := (List.range gs.length).map (base + ·), slack := r.slack.map fun x => { s := x }
          guards := List.replicate r.guards 2, reserve := res.1, spillAt := res.2 }
      let s := { s with groups := s.groups ++ gs, wgs := s.wgs ++ [w] }
      let s := modGang s gang fun gg => { gg with wgs := gg.wgs ++ [wg] }
      some (modGrid s grid fun gd =>
        { ranAt a gd with placed := gd.placed + 1, cores := gd.cores ||| BitVec.twoPow 128 core })
    | _, _ => none

/-- Places one workgroup on the lowest core of a cluster that takes it. -/
def placeOnCluster (p c a grid gang pos : Nat) (wgid : Word) (sup : Bool) (seed : Seed) (s : State) : Option State :=
  (List.range 8).findSome? fun k => placeWg p (8 * c + k) a grid gang pos wgid sup seed s

/-! ## Clusters and rails (R220, R228, R337, R339) -/

/-- Whether a logical cluster is present and takes placements. -/
def clusterPresent (s : State) (p c : Nat) : Bool :=
  c < (cfgOf s p).ceil && decide (physCluster s p c < 12) && !((partAt s p).preempted.contains c)

/-- Whether a logical cluster holds nothing. -/
def clusterEmpty (s : State) (p c : Nat) : Bool := (wgsOnCluster s p c).isEmpty

/-- The rail of a logical cluster. -/
def railOf (s : State) (p c : Nat) : Rail := nth {} s.rails ((clusterAt s (physCluster s p c)).rail - 1)

/-- The aperture at which a cluster stands: its own where it holds something, else its rail's; 0 while the rail moves. -/
def standsAt (s : State) (p c : Nat) : Nat :=
  if !(clusterEmpty s p c) then (clusterAt s (physCluster s p c)).aper
  else if (railOf s p c).busy then 0 else (railOf s p c).aper

/-- Whether a cluster can take a placement at aperture a as it stands: an empty one must be admitted by its rail. -/
def alreadyAt (s : State) (p c a : Nat) : Bool :=
  standsAt s p c == a && (!(clusterEmpty s p c) ||
    railAdmits s p (physCluster s p c) (clusterAt s (physCluster s p c)).rail a)

/-- A rail that the distributor may set to aperture a for a cluster: FREE, without clusters, not moving (R228). -/
def freeRail (s : State) (p a : Nat) : Option Nat :=
  ([1, 2, 3, 4] : List Nat).find? fun r =>
    let rl := nth {} s.rails (r - 1)
    rl.free && !rl.busy && (onRail s r).isEmpty && (rl.boundAper == 0 || rl.boundAper == a)
      && decide (ampsOf a ≤ nth 0 (cfgOf s p).railAmps (r - 1))

/-- Connects a cluster to a rail at aperture a. -/
def connect (s : State) (p c r a : Nat) (movable : Bool) : State :=
  modCluster s (physCluster s p c) fun x =>
    { x with rail := r, aper := a, connected := true, movable := x.movable || movable, switching := false
             droop := if x.rail == r then x.droop else [] }

/-- How a cluster is brought to an aperture. -/
inductive Bring where
  | here              -- it stands there
  | switch (r : Nat)  -- an empty cluster moves to a rail that is there
  | set (r : Nat)     -- a free rail must first be set to it
  | moving            -- its rail is on its way there
deriving DecidableEq, Repr

/-- The ways to bring a cluster to aperture a, if any. -/
def bring (s : State) (p c a : Nat) : Option Bring :=
  let rl := railOf s p c
  if alreadyAt s p c a then some .here
  else if !(clusterEmpty s p c) then none
  else if rl.busy && (clusterAt s (physCluster s p c)).switching then (if rl.aper == a then some .moving else none)
  else match railFor s p (physCluster s p c) a with
    | some r => some (.switch r)
    | none => (freeRail s p a).map .set

/-- Readies a cluster for a placement at a; the second part tells whether the placement can be made now. -/
def brought (s : State) (p c a : Nat) (movable : Bool) (b : Bring) : State × Bool :=
  match b with
  | .here => (connect s p c (clusterAt s (physCluster s p c)).rail a movable, true)
  | .switch r => (connect s p c r a movable, true)
  | .set r =>
    let s := { s with rails := upd s.rails (r - 1) fun x => { x with aper := a, busy := true } }
    (modCluster s (physCluster s p c) fun x =>
      { x with rail := r, switching := true, droop := if x.rail == r then x.droop else [] }, false)
  | .moving => (s, false)

/-! ## Gangs (R226 to R229) -/

/-- What a launched workgroup starts with (R229). -/
def launchSeed (r : LaunchRec) (wgid : Nat) : Seed :=
  { seq := [loWord r.args, hiWord r.args, BitVec.ofNat 32 wgid, BitVec.ofNat 32 r.wgsz]
    vec := fun t => [BitVec.ofNat 32 t, BitVec.ofNat 32 (wgid * r.wgsz + t)] }

/-- Places n workgroups of a gang, from position pos and index wgid on. -/
def placeMany (p c a grid gang : Nat) : Nat → Nat → Nat → State → Option State
  | 0, _, _, s => some s
  | n + 1, pos, wgid, s =>
    (placeOnCluster p c a grid gang pos (BitVec.ofNat 32 wgid) false (launchSeed (gridAt s grid).recd wgid) s).bind
      (placeMany p c a grid gang n (pos + 1) (wgid + 1))

/-- Forms a gang of n workgroups of a grid on cluster c at aperture a; none where it does not fit. -/
def placeGang (p c a grid n wgid : Nat) (s : State) : Option State :=
  let r := (gridAt s grid).recd
  match poolPlace s p c (n * poolP r) with
  | none => none
  | some base =>
    let gang := s.gangs.length
    let gg : Gang :=
      { part := p, grid := grid, index := BitVec.ofNat 32 (gridAt s grid).gangs, size := n, cluster := c, p := poolP r
        poolBase := base }
    placeMany p c a grid gang n 0 wgid
      (modGrid { s with gangs := s.gangs ++ [gg] } grid fun gd => { gd with gangs := gd.gangs + 1 })

/-- The apertures of a record in the order of R228. -/
def aperOrder (r : LaunchRec) : List Nat :=
  let far (a : Nat) : Nat := (a - r.apref) + (r.apref - a)
  sortBy (fun x y =>
    far x < far y || (far x == far y && x ≤ y)) ((List.range 8).filter fun a => r.alow ≤ a && a ≤ r.ahigh)

/-- The candidates of R228 in their order: at each aperture the clusters that stand there, then those it would switch. -/
def candidates (s : State) (p : Nat) (r : LaunchRec) : List (Nat × Nat × Bring) :=
  let present := (List.range 12).filter (clusterPresent s p)
  let open' (c : Nat) : Bool :=
    clusterEmpty s p c || !(r.movable || (clusterAt s (physCluster s p c)).movable)
  let at' (a : Nat) : List (Nat × Nat × Bring) :=
    (present.filter open').filterMap fun c => (bring s p c a).map fun b => (c, a, b)
  (aperOrder r).flatMap fun a =>
    (at' a).filter (fun x => x.2.2 == .here) ++ (at' a).filter fun x => x.2.2 != .here

/-- Places a gang of n workgroups on the first candidate that fits. A rail that must be set first, or is moving, is waited
for: the flag tells whether the gang stands. -/
def gangAnywhere (s : State) (p grid n wgid : Nat) : Option (State × Bool) :=
  (candidates s p (gridAt s grid).recd).findSome? fun x =>
    let (s', now) := brought s p x.1 x.2.1 (gridAt s grid).recd.movable x.2.2
    match placeGang p x.1 x.2.1 grid n wgid s' with
    | none => none
    | some s'' => if now then some (s'', true) else some (s', false)

/-- The gang sizes tried for a record with some workgroups left (R226). -/
def gangSizes (r : LaunchRec) (left : Nat) : List Nat :=
  if r.coop then [left] else distinct [min r.gangp left, min r.gangf left]

/-- Grid of an entry, made at its first placement. -/
def entryGrid (s : State) (p : Nat) (x : LaunchEntry) : Nat × State :=
  match x.grid with
  | some k => (k, s)
  | none => (s.grids.length, { s with
      grids := s.grids ++ [{ part := p, recd := x.recd, wgs := gridSize x.recd, start := s.now }] })

/-- START and STATUS 1 at the first placement (R235 step 2). -/
def markRunning (s : State) (p : Nat) (home : Option Loc) : State :=
  recordWrite (recordWrite s p home 8 (leBytes 8 s.now)) p home 0 (leBytes 4 1)

/-- Tries to place the next gang of the entry at e: none where it fits nowhere. -/
def placeEntry (s : State) (p e : Nat) : Option State :=
  match (partAt s p).launchQ[e]? with
  | none => none
  | some x =>
    let (k, s1) := entryGrid s p x
    let left := (gridAt s1 k).wgs - x.nextWg
    match (gangSizes x.recd left).findSome? fun n => (gangAnywhere s1 p k n x.nextWg).map fun y => (n, y) with
    | none => none
    | some (_, s', false) => some { s' with grids := s.grids }
    | some (n, s', true) =>
      let s' := if x.grid.isNone then markRunning s' p x.recd.home else s'
      let s' := modPart s' p fun pt =>
        { pt with launchQ := upd pt.launchQ e fun y =>
            { y with grid := some k, nextWg := x.nextWg + n, passed := none, blocking := false } }
      some (if left ≤ n then dropEntry s' p e else s')

/-- The eligible entries by PRIO and order of acceptance (R224, R225). -/
def eligible (s : State) (p : Nat) : List Nat :=
  let q := (partAt s p).launchQ
  let at' (e : Nat) : LaunchEntry := q.getD e { recd := {} }
  sortBy (fun a b =>
    (at' b).recd.prio < (at' a).recd.prio
      || ((at' a).recd.prio == (at' b).recd.prio && (at' a).order ≤ (at' b).order))
    ((List.range q.length).filter fun e => (at' e).seen.all (· == 2))

/-- The distributor's walk over the eligible entries: the first that fits is placed; each that does not is passed over, and
one that blocks ends the walk (R225). -/
def serveEntries (p : Nat) : List Nat → State → State
  | [], s => s
  | e :: rest, s =>
    match placeEntry s p e with
    | some s' => s'
    | none =>
      let x := (partAt s p).launchQ.getD e { recd := {} }
      let s := modPart s p fun pt =>
        { pt with launchQ := upd pt.launchQ e fun y => { y with passed := y.passed.or (some s.now) } }
      if x.blocking then s else serveEntries p rest s

/-- PASSED_OVER_LIMIT (R225): after 100 µs the entry blocks later ones. -/
def execPassedOverLimit (p e : Nat) (s : State) : Out :=
  .next (modPart s p fun pt =>
    { pt with launchQ := upd pt.launchQ e fun y =>
        match y.passed with
        | some t => if t + 100000 ≤ s.now then { y with blocking := true } else y
        | none => y })

/-! ## Handler groups (R219, R220, R279) -/

/-- Handler groups of a kind that are resident in a partition. -/
def handlersOf (s : State) (p : Nat) (message : Bool) : Nat :=
  (s.grids.filter fun gd => gd.part == p && gd.handlerGroup && gd.message == message && !gd.ended).length

/-- The record that stands for a handler group's launch record at aperture a. -/
def handlerRec (entry : DWord) (n a : Nat) : LaunchRec :=
  { entry := entry, wgsz := n, regs := 32, apref := a, alow := a, ahigh := a, prio := 3 }

/-- Places a handler group of at most run threads on cluster c at aperture a. -/
def placeHandler (p c a run : Nat) (message sup : Bool) (entry : DWord) (seed : Nat → Seed) (s : State) : Option (Nat × State) :=
  let n := min run (widthOf a)
  let grid := s.grids.length
  let gang := s.gangs.length
  let gd : Grid :=
    { part := p, recd := handlerRec entry n a, handlerGroup := true, message := message, wgs := 1, start := s.now }
  let gg : Gang := { part := p, grid := grid, index := 0xFFFFFFFF, cluster := c }
  (placeOnCluster p c a grid gang 0 0xFFFFFFFF sup (seed n)
    { s with grids := s.grids ++ [gd], gangs := s.gangs ++ [gg] }).map fun s => (n, s)

/-- Free group slots of a cluster (R220). -/
def clusterSlots (s : State) (p c : Nat) : Nat :=
  (List.range 8).foldl (fun n k => n + (128 - (groupsOnCore s p (8 * c + k)).length)) 0

/-- The clusters that run at some aperture, whether or not they hold a group, in the order of R220. -/
def runningClusters (s : State) (p : Nat) : List Nat :=
  let cs := (List.range 12).filter fun c => clusterPresent s p c && standsAt s p c != 0
  let late (c : Nat) : Nat := if (clusterAt s (physCluster s p c)).movable then 1 else 0
  sortBy (fun a b =>
    late a < late b || (late a == late b &&
      (clusterSlots s p b < clusterSlots s p a || (clusterSlots s p a == clusterSlots s p b && a ≤ b)))) cs

/-- The lowest cluster that runs at no aperture, with the ways to bring it to one, nearest A5 first (R220, R228). -/
def idleCluster (s : State) (p : Nat) : List (Nat × Nat × Bring) :=
  match (List.range 12).find? fun c => clusterPresent s p c && clusterEmpty s p c && standsAt s p c == 0 with
  | none => []
  | some c => ([5, 4, 6, 3, 7, 2, 1] : List Nat).filterMap fun a => (bring s p c a).map fun b => (c, a, b)

/-- Places a handler group by R220: how many messages it takes, and the state after it. A rail that must first be set is waited
for, and the group takes no message yet. -/
def spawnHandler (p run : Nat) (message sup : Bool) (entry : DWord) (seed : Nat → Seed) (s : State) : Option (Nat × State) :=
  let on (c : Nat) : Option (Nat × State) :=
    let a := standsAt s p c
    if !(alreadyAt s p c a) then none  -- its rail has no current to spare for it (R337)
    else placeHandler p c a run message sup entry seed (connect s p c (clusterAt s (physCluster s p c)).rail a false)
  match (runningClusters s p).findSome? on with
  | some x => some x
  | none => (idleCluster s p).findSome? fun x =>
      let (s', now) := brought s p x.1 x.2.1 false x.2.2
      (placeHandler p x.1 x.2.1 run message sup entry seed s').map fun y => if now then y else (0, s')

/-- Word i of a message. -/
def msgWord (b : List Byte) (i : Nat) : Word := BitVec.ofNat 32 (fieldAt b (4 * i) 4)

/-- The leading elements of a list that satisfy a test. -/
def leading {α : Type} (p : α → Bool) : List α → List α
  | [] => []
  | x :: r => if p x then x :: leading p r else []

/-- What a launch-handler group starts with (R219). -/
def launchHandlerSeed (arg : DWord) (msgs : List (List Byte × Nat)) (n : Nat) : Seed :=
  { seq := [loWord arg, hiWord arg, 0, BitVec.ofNat 32 n]
    vec := fun t =>
      if t < n then
        let m := nth ([], 0) msgs t
        [BitVec.ofNat 32 t, BitVec.ofNat 32 m.2] ++ (List.range 16).map (msgWord m.1)
      else [BitVec.ofNat 32 t] }

/-- One service of the host message queue: a discard at the head, or a group; none where nothing can be done (R218,
R219). -/
def serveHost (s : State) (p : Nat) : Option State :=
  let pt := partAt s p
  if pt.frozen then none else
  match pt.hostQ with
  | [] => none
  | (m, _) :: rest =>
    let head := (msgWord m 0).toNat
    let (entry, arg) := nth (0, 0) (cfgOf s p).hht (head % 16)
    if 16 ≤ head || entry == 0 then
      some (ringEntry (modPart s p fun pt => { pt with hostQ := rest }) p 1 0 0 0xFFFFFFFF 0 head)
    else if 4 ≤ handlersOf s p false then none
    else
      let run := leading (fun x => (msgWord x.1 0).toNat == head) pt.hostQ
      (spawnHandler p run.length false true entry (launchHandlerSeed arg run) s).map fun x =>
        modPart x.2 p fun pt => { pt with hostQ := pt.hostQ.drop x.1 }

/-- LAUNCH_HANDLER_SPAWN (R218 to R220). -/
def execLaunchHandlerSpawn (p : Nat) (s : State) : Out := .next ((serveHost s p).getD s)

/-- What a message-handler group starts with (R279). -/
def messageHandlerSeed (arg : DWord) (handler : Nat) (msgs : List Msg) (n : Nat) : Seed :=
  { seq := [loWord arg, hiWord arg, BitVec.ofNat 32 handler, BitVec.ofNat 32 n]
    vec := fun t =>
      match msgs[t]? with
      | some m =>
        if t < n then
          [BitVec.ofNat 32 t, m.arg] ++ (List.range 8).map (nth 0 m.payload ·) ++ [BitVec.ofNat 32 m.source, m.wgid, m.tid]
        else [BitVec.ofNat 32 t]
      | none => [BitVec.ofNat 32 t] }

/-- Entry n of the message-handler table: entry VA, argument VA, flags; zero where no page maps it (R279). DESIGN CHOICE (log 61): the
three fields lie at 0, 8 and 16 of its 24 bytes. -/
def messageHandler (s : State) (p n : Nat) : DWord × DWord × Bool :=
  let at' (o : Nat) : Nat :=
    ((unitRead s p ((cfgOf s p).mht + BitVec.ofNat 64 (24 * n + 8 * o)) 8).map leNat).getD 0
  (BitVec.ofNat 64 (at' 0), BitVec.ofNat 64 (at' 1), at' 2 % 2 == 1)

/-- One service of the active-message queue (R279). -/
def serveMessages (s : State) (p : Nat) : Option State :=
  let pt := partAt s p
  if pt.frozen then none else
  match pt.msgQ with
  | [] => none
  | m :: rest =>
    let (entry, arg, sup) := messageHandler s p m.handler
    let s := noteSpan p ((cfgOf s p).mht + BitVec.ofNat 64 (24 * m.handler)) 24 s
    if entry == 0 then
      some (ringEntry (modPart s p fun pt => { pt with msgQ := rest }) p 2 0 0 0xFFFFFFFF 0 m.handler)
    else if 4 ≤ handlersOf s p true then none
    else
      let run := leading (fun (x : Msg) => x.handler == m.handler) pt.msgQ
      (spawnHandler p run.length true sup entry (messageHandlerSeed arg m.handler run) s).map fun x =>
        modPart x.2 p fun pt => { pt with msgQ := pt.msgQ.drop x.1 }

/-- MESSAGE_HANDLER_SPAWN (R279, R220). -/
def execMessageHandlerSpawn (p : Nat) (s : State) : Out := .next ((serveMessages s p).getD s)

/-- GANG_PLACEMENT (R225, R226): handler groups come first, then the next gang of the first entry that fits. -/
def execGangPlacement (p : Nat) (s : State) : Out :=
  match (serveHost s p).or (serveMessages s p) with
  | some s => .next s
  | none => if (partAt s p).frozen then .next s else .next (serveEntries p (eligible s p) s)

/-! ## The message window (R217) -/

/-- An access to the window that is discarded. -/
def windowError (s : State) (p header : Nat) : State := ringEntry s p 1 0 0 0xFFFFFFFF 0 header

/-- MESSAGE_POST (R217): a 64-byte aligned write enters the queue; a full queue gives no credit, so the write has not
happened yet. -/
def execMessagePost (p off : Nat) (bytes : List Byte) (s : State) : Out :=
  let pt := partAt s p
  if pt.cfg.isNone || 4096 ≤ off then .next s
  else if bytes.length != 64 || off % 64 != 0 then .next (windowError s p (msgWord bytes 0).toNat)
  else if pt.frozen || 256 ≤ pt.hostQ.length then .next s
  else .next (modPart s p fun pt =>
    { pt with hostQ := pt.hostQ ++ [(bytes, pt.accepted % 2 ^ 32)], accepted := pt.accepted + 1 })

/-- MESSAGE_WINDOW_READ (R217): it completes with all bytes 0xFF. -/
def execMessageWindowRead (p off : Nat) (s : State) : Out :=
  if (partAt s p).cfg.isNone || 4096 ≤ off then .next s
  else .next { windowError s p 0 with lastRead := BitVec.allOnes 64 }

/-! ## Jets (R230, R231) -/

/-- Lit ALU quads that a column, or at A2 a pair of columns, holds. -/
def litQuads (a : Nat) : Nat :=
  match a with | 1 => 1 | 2 => 3 | 3 => 2 | 4 => 3 | 5 => 4 | 6 => 6 | 7 => 8 | _ => 0

/-- The columns, or at A2 pairs of columns, of a split's quads, one for each quad. -/
def splitColumns (gr : Group) (a e : Nat) : List Nat :=
  (bitsOf (splitAt gr e).qmask).map fun k => (quadAt gr k).slice / 8 / (if a == 2 then 2 else 1)

/-- The splits of a core in some state, with their groups. -/
def coreSplits (s : State) (p core : Nat) (st : SState) : List (Nat × Nat) :=
  ((groupsOnCore s p core).filter fun g => groupCounts (groupAt s g) && !(groupAt s g).restarting).flatMap fun g =>
    (positions (fun (sp : Split) => sp.valid && !sp.halted && sp.st == st) (groupAt s g).splits).map fun e => (g, e)

/-- Priority of a split's grid; 3 for a handler group (R230). -/
def splitPrio (s : State) (g : Nat) : Nat := (gridOf s g).recd.prio

/-- The order in which ready splits are served (R230). -/
def readyBefore (s : State) (x y : Nat × Nat) : Bool :=
  let a := splitAt (groupAt s x.1) x.2
  let b := splitAt (groupAt s y.1) y.2
  let cls (sp : Split) (g : Nat) : Nat := if sp.overdue then 0 else if sp.handler then 1 else 5 - splitPrio s g
  let ka := cls a x.1
  let kb := cls b y.1
  let sa := (groupAt s x.1).slot
  let sb := (groupAt s y.1).slot
  ka < kb || (ka == kb && (a.age < b.age || (a.age == b.age && (sa < sb || (sa == sb && x.2 ≤ y.2)))))

/-- Whether a ready split's columns all have a lit ALU quad to spare, and no older overdue split needs one of them. -/
def columnsFree (s : State) (used : List Nat) (overdue : List (Nat × Nat)) (x : Nat × Nat) : Bool :=
  let gr := groupAt s x.1
  let a := (wgOf s x.1).aper
  let mine := splitColumns gr a x.2
  let age := (splitAt gr x.2).age
  mine.all fun c => used.count c + mine.count c ≤ litQuads a &&
    !(overdue.any fun y => y != x && (splitAt (groupAt s y.1) y.2).age < age
      && (splitColumns (groupAt s y.1) a y.2).contains c)

/-- Whether a split would be granted a second time before one that was ready when it became ready first (R232). -/
def grantedTwice (s : State) (ready : List (Nat × Nat)) (x : Nat × Nat) : Bool :=
  match (splitAt (groupAt s x.1) x.2).prev with
  | none => false
  | some t => ready.any fun y => y != x && (splitAt (groupAt s y.1) y.2).age < t

/-- A split that has been granted a jet begins a run. -/
def granted (sp : Split) : Split :=
  { sp with st := .issuing, count := 0, overdue := false, prev := some sp.age, ready := [], cycle := 0 }

/-- JET_GRANT (R230, R231): a free jet of a core goes to the first ready split whose columns are free; the splits that were
ready before it are overdue from then on. -/
def execJetGrant (p core : Nat) (s : State) : Out :=
  let s := each (groupsOnCore s p core) (fun g s => wake s g) s
  let issuing := coreSplits s p core .issuing
  if 16 ≤ issuing.length || coreHalted s p core || clockGated s p core then .next s
  else
    let ready := sortBy (readyBefore s) (coreSplits s p core .ready)
    let used := issuing.flatMap fun x => splitColumns (groupAt s x.1) (wgOf s x.1).aper x.2
    let overdue := ready.filter fun x => (splitAt (groupAt s x.1) x.2).overdue
    match ready.find? fun x => columnsFree s used overdue x && !(grantedTwice s ready x) with
    | none => .next s
    | some (g, e) =>
      let age := (splitAt (groupAt s g) e).age
      let s := ready.foldl (fun (s : State) (x : Nat × Nat) => modGroup s x.1 fun gr => modSplit gr x.2 fun sp =>
        { sp with overdue := sp.overdue || decide (sp.age < age) }) s
      .next (modGroup s g fun gr => modSplit gr e granted)

end Sys2Proof.Machine
end

