-- ==== Sys2Proof/Machine/Contexts.lean ====
section
/-!
DEFINITION. TLBI (R243); pre-emption, the save area and resumption (R259 to R263).
-/

namespace Sys2Proof.Machine

/-! ## TLBI (R243) -/

/-- Whether a TLBI of kind d with value x drops a cached translation. -/
def tlbiHits (d : Nat) (x : DWord) (t : TlbEntry) : Bool :=
  match d with
  | 0 => x.toNat < 2 ^ 52 && tlbMaps t (x.toNat / 65536)
  | 1 => true
  | 2 => t.leaf.kind == 3 && t.leaf.peer == x.toNat % 256
  | _ => x.toNat < 2 ^ 52 && t.page / 4096 == x.toNat / 2 ^ 28

/-- The access of a parked WAITA's word, to be translated again. -/
def waitaAgain (s : State) (g : Nat) (sp : Split) (x : Nat × Loc × Word × DWord) : Ask :=
  let act := (bitsOf sp.act).filter (· / 4 == x.1)
  { iid := s.nextId, lane := act.headD (4 * x.1), who := act, va := x.2.2.2, size := 4, align := 4, kind := .read, acq := true
    comparand := x.2.2.1, slack := slackOf s g (Table.slkOf (modeOf (groupAt s g) x.1)), late := true }

/-- Drops cached translations of a partition, in every core and cluster. DESIGN CHOICE (log 62): a WAITA, which reads its word
again and again, translates it again. -/
def dropTranslations (s : State) (p : Nat) (hit : TlbEntry → Bool) : State :=
  let global (x : Nat × Loc × Word × DWord) : Bool := !(isPool x.2.1)
  let redo (g : Nat) (sp : Split) (w : Waiting) : Waiting :=
    { w with asks := w.asks ++ (w.words.filter global).map (waitaAgain s g sp), words := w.words.filter fun x => !(global x) }
  let again (g : Nat) (sp : Split) : Split :=
    match sp.park with
    | some (.waita _ items) =>
      if items.any global then { sp with st := .waitBit, park := some (.walk [redo g sp { words := items }]) } else sp
    | some (.walk ws) => { sp with park := some (.walk (ws.map (redo g sp))) }
    | _ => sp
  { s with
    tlb := s.tlb.filter fun t => !(t.part == p && hit t)
    ctlb := s.ctlb.filter fun t => !(t.part == p && hit t)
    groups := s.groups.mapIdx fun g gr => if gr.part == p then { gr with splits := gr.splits.map (again g) } else gr }

/-- Whether an access of a partition that was translated before serial n is still outstanding: a write by its serial number of
translation, where a lane made it. -/
def translatedBefore (s : State) (p n : Nat) : Bool :=
  (s.groups.any fun gr => gr.part == p && !gr.gone &&
    (gr.reqs.any (fun r => r.id < n && (loadSpan r).isSome && r.data.isNone)
      || gr.storeQ.any fun w => max w.id w.tid ≤ n && !isPool w.loc))
  || (s.flight.any fun w => w.part == p && !w.applied && max w.id w.tid ≤ n)
  || s.wgs.any fun w => w.part == p && w.commands.any fun c => c.ops.any fun o => o.id < n

/-- TLBI (R243): a release at device scope, the drop, and the wait for what the dropped entries had translated. -/
def tlbiFx (v : Env) : Eff :=
  match captureAll v.s v.g with
  | none => { s := v.s, flow := .yield }
  | some s =>
    if !(groupAcked s v.g) || !(clusterPerformed s v.g) then { s := s, flow := .yield }
    else
      let p := v.gr.part
      let xs := v.quads.map fun k => sPair v.gr k v.a
      let (n, s) := fresh s
      let s := dropTranslations s p fun t => xs.any fun x => tlbiHits v.d x t
      if translatedBefore s p n then { s := s, flow := .translate { upTo := some n } } else { s := s, flow := .endRun }

/-- A FENCE that waits in split e of a group, the i-th thing that it waits for, is looked at again (R174). -/
def retryFence (g e i : Nat) (s : State) : State :=
  match (nth {} (waitingOf (splitAt (groupAt s g) e)) i).fence with
  | none => s
  | some (k, wide) =>
    let (s, met) := fenceTurn s g k wide
    if !met then s
    else modGroup s g fun gr =>
      let lanes := (nth {} (waitingOf (splitAt gr e)) i).lanes
      let (lost, gr) := if k == 3 then lostStores gr ((bitsOf lanes).filter (laneLive gr)) else ([], gr)
      modSplit gr e fun sp =>
        { sp with park := some (.walk (upd (waitingOf sp) i fun w => { w with fence := none, faults := w.faults ++ lost })) }

/-- Whether a split has all that it waits for at its next instruction. -/
def waitsOver (sp : Split) : Bool := sp.valid && !(waitingOf sp).isEmpty && (waitingOf sp).all (·.over)

/-- The FENCEs and TLBIs that wait for nothing any more are over (R174, R243), and the splits that have all they wait for go on. -/
def endWaits (s : State) : State :=
  if s.groups.all fun gr => gr.splits.all fun sp => (waitingOf sp).isEmpty then s
  else
    let due (p : Nat) (w : Waiting) : Bool := match w.upTo with | some n => !(translatedBefore s p n) | none => false
    let fenced (w : Waiting) : Bool := w.fence.isSome
    let some' (gr : Group) : Bool := groupCounts gr && gr.splits.any fun sp => sp.valid && !(waitingOf sp).isEmpty
    each (positions some' s.groups) (fun g s =>
      let p := (groupAt s g).part
      let s := modGroup s g fun gr => { gr with splits := gr.splits.map fun sp => match sp.park with
        | some (.walk ws) => { sp with park := some (.walk (ws.map fun w => if due p w then { w with upTo := none } else w)) }
        | _ => sp }
      let s := each (List.range 8) (fun e s =>
        each (positions fenced (waitingOf (splitAt (groupAt s g) e))) (retryFence g e) s) s
      each (positions waitsOver (groupAt s g).splits) (translated g) s) s
def execTlbi (d a b : Byte) (s : State) : Out := issue1 0x18 d a b tlbiFx s

/-! ## Pre-emption (R259) -/

/-- Marks logical clusters as pre-empted. -/
def preempt (s : State) (p : Nat) (ks : List Nat) : State :=
  modPart s p fun pt => { pt with preempted := each ks setAdd pt.preempted }

/-- PRE_EMPTION: the context's splits on some logical clusters stand still, each from its next run boundary on. -/
def execPreEmption (p : Nat) (clusters : List Nat) (s : State) : Out := .next (preempt s p (clusters.filter (· < 12)))

/-- Whether a group that is to halt has come to its halt: every run has ended, and its store queue is drained. -/
def groupQuiet (gr : Group) : Bool :=
  gr.storeQ.isEmpty && (!(groupCounts gr) || gr.splits.all fun sp => !sp.valid || sp.st != .issuing)

/-- Whether a logical core stands still with every run ended and every store queue drained. -/
def coreQuiet (s : State) (p core : Nat) : Bool := (groupsOnCore s p core).all fun g => groupQuiet (groupAt s g)

/-! ## Granules and their images (R260, Tables 15.6 and 15.7) -/

/-- Logical cluster of a granule. -/
def granuleCluster (gr : Granule) : Nat :=
  match gr with
  | .slice c _ | .acc c _ | .scale c _ | .slot c _ => c / 8
  | .pool c _ | .control c => c

/-- A list of bytes cut or filled with zeros to n. -/
def fitBytes (n : Nat) (l : List Byte) : List Byte := (l ++ List.replicate (n - l.length) 0).take n

/-- The quads whose registers lie in a slice, in the order of their workgroups. -/
def sliceQuads (s : State) (p core j : Nat) : List Quad :=
  (groupsOnCore s p core).flatMap fun g => (groupAt s g).quads.filter (·.slice == j)

/-- The image of a register slice: its four lane banks, each with the words of its quads one after the other. -/
def sliceImage (s : State) (p core j : Nat) : List Byte :=
  (List.range 4).flatMap fun b => fitBytes 1024 ((sliceQuads s p core j).flatMap fun q =>
    (List.range q.alloc).flatMap fun r => leBytes 4 (cellGet 0 r (nth {} q.lanes b).v).toNat)

/-- The image of a pool block: zero where no gang's area lies. -/
def poolImage (s : State) (p c blk : Nat) : List Byte :=
  let a := 1024 * blk
  let inside (gg : Gang) : Bool :=
    gg.part == p && gg.cluster == c && !gg.retired && gg.poolBase ≤ a && a < gg.poolBase + gg.size * gg.p
  match s.gangs.findIdx? inside with
  | some k => homeBytes s ⟨.pool k, a - (gangAt s k).poolBase⟩ 1024
  | none => leBytes 1024 0

/-- The accumulator granules that a core's reservations hold, in order: workgroup, row block, window. -/
def accGranules (s : State) (p core : Nat) : List (Nat × Nat × Nat) :=
  (wgsOnCore s p core).flatMap fun w =>
    match (wgAt s w).reserv with
    | none => []
    | some r => (List.range (r.rows / 8)).flatMap fun b => (List.range r.windows).map fun x => (w, b, x)

/-- Row r of accumulator granule i of a core. -/
def accImage (s : State) (p core i r : Nat) : List Byte :=
  match (accGranules s p core)[i]? with
  | none => leBytes 256 0
  | some (w, b, x) =>
    (List.range 64).flatMap fun c =>
      leBytes 4 (cellGet 0 (accKey (8 * b + r) (64 * x + c)) ((wgAt s w).reserv.getD {}).acc).toNat

/-- The scale quarter that a core's matrix workgroup number i was given. -/
def scaleImage (s : State) (p core i : Nat) : List Byte :=
  let ws := (wgsOnCore s p core).filter fun w => (gridAt s (wgAt s w).grid).recd.accrows != 0
  match ws[i]? with
  | none => leBytes 16384 0
  | some w => (List.range 16384).map fun a => cellGet 0 a (wgAt s w).scale

/-- The image of a group slot: zero where no group holds it. -/
def slotImage (s : State) (p core k : Nat) : List Byte :=
  match (groupsOnCore s p core).find? fun g => (groupAt s g).slot == k with
  | some g => groupImage s g
  | none => leBytes 5120 0

/-- Where a granule's image goes in its cluster's block, and its bytes (Table 15.6). -/
def granuleImage (s : State) (p : Nat) (gr : Granule) : List (Nat × List Byte) :=
  match gr with
  | .slice core j => [(core % 8 * 2 ^ 20 + j * 4096, sliceImage s p core j)]
  | .pool c blk => [(0x0800000 + 1024 * blk, poolImage s p c blk)]
  | .acc core i => (List.range 8).map fun r =>
      (0x0C00000 + core % 8 * 2 ^ 19 + (i / 4 * 8 + r) * 1024 + i % 4 * 256, accImage s p core i r)
  | .scale core i => [(0x1000000 + core % 8 * 65536 + i * 16384, scaleImage s p core i)]
  | .slot core k => [(0x1080000 + (128 * (core % 8) + k) * 5120, slotImage s p core k)]
  | .control _ => [(0x1580000, (List.range 65536).map (Config.controlByte s.tick))]

/-- Whether a granule has its place in a save block. -/
def granuleOk (gr : Granule) : Bool :=
  match gr with
  | .slice c j => c < 96 && decide (j < 256)
  | .pool c b => c < 12 && decide (b < 4096)
  | .acc c i => c < 96 && decide (i < 256)
  | .scale c i => c < 96 && decide (i < 4)
  | .slot c k => c < 96 && decide (k < 128)
  | .control c => c < 12

/-- Writes a granule to the save area of its context. -/
def saveGranule (s : State) (p : Nat) (gr : Granule) : State :=
  let base := (cfgOf s p).ctxBase + granuleCluster gr * 2 ^ 25
  let s := (granuleImage s p gr).foldl (fun (s : State) (x : Nat × List Byte) =>
    unitWrite s p (BitVec.ofNat 64 (base + x.1)) x.2) s
  modPart s p fun pt => { pt with saved := if pt.saved.contains gr then pt.saved else pt.saved ++ [gr] }

/-! ## The saved images follow the state, and are read back (R262, R263) -/

/-- The bytes at which two images of a granule differ, with their offsets. The control block's layout is not visible. -/
def imageDiff (old new : List (Nat × List Byte)) : List (Nat × Byte) :=
  (old.zip new).flatMap fun x =>
    ((List.range x.2.2.length).zip (x.1.2.zip x.2.2)).filterMap fun y => if y.2.1 == y.2.2 then none else some (x.2.1 + y.1, y.2.2)

/-- The splits of a saved group slot that a write has woken: their byte with STATE 0 (R263). -/
def wokenSplits (s s' : State) (p core k : Nat) : List (Nat × Byte) :=
  match (groupsOnCore s p core).find? fun g => (groupAt s g).slot == k with
  | none => []
  | some g => (List.range 9).filterMap fun e =>
      let a := splitAt (groupAt s g) e
      let b := splitAt (groupAt s' g) e
      if a.valid && b.valid && a.st != .ready && a.st != .issuing && b.st == .ready then
        some (0x1080000 + (128 * (core % 8) + k) * 5120 + 0x40 + 16 * e + 13, BitVec.ofNat 8 (b.qmask.toNat % 16 * 16))
      else none

/-- What a step has changed of a saved granule reaches its image (R263). -/
def followGranule (s : State) (p : Nat) (s' : State) (gr : Granule) : State :=
  let base := (cfgOf s p).ctxBase + granuleCluster gr * 2 ^ 25
  let put (t : State) (x : Nat × Byte) : State := unitWrite t p (BitVec.ofNat 64 (base + x.1)) [x.2]
  match gr with
  | .control _ => s'
  | .slot core k => (imageDiff (granuleImage s p gr) (granuleImage s' p gr) ++ wokenSplits s s' p core k).foldl put s'
  | _ => (imageDiff (granuleImage s p gr) (granuleImage s' p gr)).foldl put s'

/-- After a step from s to s': every granule that was saved and still is has its image brought up to date. -/
def keepImages (s s' : State) : State :=
  if s.parts.all fun pt => pt.saved.isEmpty then s'
  else (List.range 12).foldl (fun t p =>
    ((partAt s p).saved.filter (partAt s' p).saved.contains).foldl (followGranule s p) t) s'

/-- The circuits of a workgroup end as it comes to its halt (R276), whatever others on its core do. -/
def haltCircuits (s : State) : State :=
  let done (w : Workgroup) : Bool :=
    (w.circuits.any (·.isOpen)) && coreHalted s w.part w.core && w.groups.all fun g => groupQuiet (groupAt s g)
  if s.wgs.any done then
    { s with wgs := s.wgs.map fun w => if done w then { w with circuits := w.circuits.map fun c => { c with isOpen := false } } else w }
  else s

/-- The ownership bits that wait for a frame are written once there is one (R312, R313). -/
def ownersKept (s : State) : State :=
  if s.parts.all fun pt => pt.returned.isEmpty && pt.taken.isEmpty then s else (List.range 12).foldl flushOwned s

/-- A WAITA whose split goes on after a halt reads the words of other devices again (R181). -/
def readAgain (s s' : State) : State :=
  if s'.groups.all fun gr => gr.reqs.all fun r => !(isWatch r.what) then s'
  else { s' with groups := s'.groups.map fun gr =>
    if coreHalted s gr.part gr.core && !(coreHalted s' gr.part gr.core) then
      { gr with reqs := gr.reqs.filter fun r => !(isWatch r.what) }
    else gr }

/-- What follows from a step from s to s': barriers are looked at again for the groups that it has ended (R179), and the saved
images of halted contexts follow (R263). -/
def afterStep (s s' : State) : State :=
  keepImages s (endWaits (recheckEnded 8 s (ownersKept (readAgain s (haltCircuits s')))))

/-- A number of n bytes at an offset of an image. -/
def imageNum (b : List Byte) (o n : Nat) : Nat := leNat ((b.drop o).take n)

/-- Gives the quads of a register slice the words of its image. -/
def restoreSlice (s : State) (p core j : Nat) (b : List Byte) : State :=
  let all := (groupsOnCore s p core).flatMap fun g =>
    (positions (fun (q : Quad) => q.slice == j) (groupAt s g).quads).map fun k => (g, k)
  (all.foldl (fun (x : State × Nat) gk =>
    let n := (quadAt (groupAt x.1 gk.1) gk.2).alloc
    (modGroup x.1 gk.1 fun gr => modQuad gr gk.2 fun q => { q with lanes := q.lanes.mapIdx fun i ln =>
      { ln with v := (List.range n).foldl (fun v r =>
          cellPut 0 r (BitVec.ofNat 32 (imageNum b (1024 * i + 4 * (x.2 + r)) 4)) v) ln.v } }, x.2 + n)) (s, 0)).1

/-- Gives a group the registers, modes, lane states and tables of its image (Table 15.7). -/
def restoreGroup (gr : Group) (b : List Byte) : Group :=
  let bit (o l : Nat) : Bool := imageNum b o 8 / 2 ^ l % 2 == 1
  let lane (l : Nat) (ln : Lane) : Lane :=
    { ln with p := BitVec.ofNat 16 (imageNum b (0x380 + 2 * l) 2 / 2 * 2)
              helper := bit 0x350 l, dead := bit 0x358 l, exited := bit 0x360 l }
  let quad (k : Nat) (q : Quad) : Quad :=
    { q with
      mode := modeFrom q.mode (BitVec.ofNat 32 (imageNum b (0x300 + 4 * k) 4)), alloc := 8 * imageNum b (0x368 + k) 1
      s := (List.range 64).foldl (fun c r => cellPut 0 r (BitVec.ofNat 32 (imageNum b (0x400 + 256 * k + 4 * r) 4)) c) q.s
      lanes := q.lanes.mapIdx fun i ln => lane (4 * k + i) ln }
  let gr := { gr with
    quads := gr.quads.mapIdx quad, idem := imageNum b 8 8 % 2 == 1
    restart := BitVec.ofNat 64 (imageNum b 8 8 % 2 ^ 52 / 4 * 4)
    regions := gr.regions.map fun r => match r.place with
      | .table i => regionFrom gr r ((b.drop (0x100 + 64 * i)).take 64)
      | .spilled _ => r }
  let split (e : Nat) (sp : Split) : Split :=
    let x := imageNum b (0x40 + 16 * e) 16
    if x % 2 == 0 then {} else
      let qm := BitVec.ofNat 16 (x / 2 ^ 108)
      { sp with valid := true, handler := x / 2 % 2 == 1, pc := BitVec.ofNat 64 (x / 4 % 2 ^ 50 * 4), qmask := qm
                inner := codePlace gr (x / 2 ^ 84 % 2 ^ 16), act := if sp.valid then sp.act else liveMask gr &&& lanesOfQuads qm }
  { gr with splits := gr.splits.mapIdx split }

/-- Reads a granule back from its image (R262). What the image does not hold, or no page maps, is as State holds it. -/
def restoreGranule (p : Nat) (s : State) (gr : Granule) : State :=
  let base := (cfgOf s p).ctxBase + granuleCluster gr * 2 ^ 25
  let now := granuleImage s p gr
  let held := now.map fun x => (unitRead s p (BitVec.ofNat 64 (base + x.1)) x.2.length).getD x.2
  let s := now.foldl (fun s x => noteForeign p (BitVec.ofNat 64 (base + x.1)) s) s
  if held == now.map (·.2) then s
  else
    let b := held.headD []
    match gr with
    | .slice core j => restoreSlice s p core j b
    | .pool c blk =>
      match s.gangs.findIdx? fun gg => gg.part == p && gg.cluster == c && !gg.retired && gg.poolBase ≤ 1024 * blk
          && 1024 * blk < gg.poolBase + gg.size * gg.p with
      | some k => pokeBytes s ⟨.pool k, 1024 * blk - (gangAt s k).poolBase⟩ b
      | none => s
    | .acc core i =>
      match (accGranules s p core)[i]? with
      | none => s
      | some (w, rb, x) => modWg s w fun wg => { wg with reserv := wg.reserv.map fun rv =>
          { rv with acc := (List.range 8).foldl (fun c r => (List.range 64).foldl (fun c i =>
              cellPut 0 (accKey (8 * rb + r) (64 * x + i)) (BitVec.ofNat 32 (imageNum (nth [] held r) (4 * i) 4)) c) c) rv.acc } }
    | .scale core i =>
      match ((wgsOnCore s p core).filter fun w => (gridAt s (wgAt s w).grid).recd.accrows != 0)[i]? with
      | none => s
      | some w => modWg s w fun wg => { wg with scale := ((List.range b.length).zip b).foldl (fun c y => cellPut 0 y.1 y.2 c) wg.scale }
    | .slot core k =>
      match (groupsOnCore s p core).find? fun g => (groupAt s g).slot == k with
      | none => s
      | some g => modGroup s g fun x => restoreGroup x b
    | .control _ => s

/-- GRANULE_CLAIM (R260): a granule of a halted context is claimed; it is first written to the save area. -/
def execGranuleClaim (p : Nat) (gr : Granule) (s : State) : Out :=
  let c := granuleCluster gr
  if granuleOk gr && c < (cfgOf s p).ceil && (partAt s p).preempted.contains c && !((partAt s p).saved.contains gr)
      && (List.range 8).all fun k => coreQuiet s p (8 * c + k) then .next (saveGranule s p gr)
  else .next s

/-- The aperture that the context on a logical cluster holds; 0 for none. -/
def heldAper (s : State) (p c : Nat) : Nat :=
  match wgsOnCluster s p c with
  | w :: _ => (wgAt s w).aper
  | [] => 0

/-- Splits enter arbitration as newly ready (R262); a group restored from its image holds no written bit (R329). -/
def freshReady (now : Nat) (restored : Bool) (gr : Group) : Group :=
  let gr := { gr with splits := gr.splits.map fun sp => if sp.st == .ready then { sp with age := now, overdue := false } else sp }
  if restored then { gr with writtenV := [], writtenS := [], writtenP := [] } else gr

/-- CONTEXT_RESUME (R262): where the cluster can run at the aperture that the context held, its granules are restored and its
splits go on. -/
def execContextResume (p c : Nat) (s : State) : Out :=
  let pc := physCluster s p c
  let a := heldAper s p c
  let x := clusterAt s pc
  let resume (s : State) : State :=
    let held := (partAt s p).saved
    let s := (held.filter fun g => granuleCluster g == c).foldl (restoreGranule p) s
    let s := modPart s p fun pt =>
      { pt with preempted := setDel c pt.preempted, saved := pt.saved.filter fun g => granuleCluster g != c }
    { s with groups := s.groups.map fun gr => if gr.part == p && gr.core / 8 == c then 
        freshReady s.tick (held.contains (.slot gr.core gr.slot)) gr else gr }
  if !((partAt s p).preempted.contains c) || 12 ≤ pc then .next s
  else if a == 0 || (x.connected && x.aper == a) then .next (resume s)
  else match railFor s p pc a with
    | some r =>
      let movable := (wgsOnCluster s p c).any fun w => (gridAt s (wgAt s w).grid).recd.movable
      .next (resume (connect s p c r a movable))
    | none => .next s

end Sys2Proof.Machine
end

