-- ==== Sys2Proof/Machine/Integer.lean ====
section
/-!
DEFINITION. The integer, logic, compare, immediate and address instructions of a lane (R62 to R74).
-/

namespace Sys2Proof.Machine

/-! ## Shared forms -/

/-- A lane register, or pair, as a number. -/
def vRead (gr : Group) (l r : Nat) (wide : Bool) : Nat :=
  if wide then (vPair gr l r).toNat else (vGet gr l r).toNat

/-- Writes a number to a lane register or pair. -/
def vWrite (gr : Group) (l r : Nat) (wide : Bool) (x : Nat) : Group :=
  if wide then vSetPair gr l r (BitVec.ofNat 64 x) else vSet gr l r (BitVec.ofNat 32 x)

/-- The OR of a list of flag words (R49). -/
def orAll (l : List Word) : Word := l.foldl (· ||| ·) 0

/-- Each element of a type gives a code and flags: the packed codes and the OR of the flags (R38, R49). -/
def mapElems (t : Nat) (f : Nat → Nat × Word) : Nat × Word :=
  let rs := (List.range (elemCount t)).map f
  (packElems t (rs.map (·.1)), orAll (rs.map (·.2)))

/-- Every guarded lane writes a value and sets flags; wide tells whether D is a pair under the quad's mode word. -/
def Env.laneResult (v : Env) (wide : Word → Bool) (f : Group → Nat → Word → Nat × Word) : Eff :=
  v.perLane fun l gr =>
    let m := modeOf gr (l / 4)
    let r := f gr l m
    orFlags (vWrite gr l v.d (wide m) r.1) l r.2

/-- D is a single register under every type. -/
def narrow (_ : Word) : Bool := false

/-! ## Arithmetic (R63, R64, R72) -/

/-- Elementwise integer operation on A and B, then fit (R39). -/
def intBin (v : Env) (k : Int → Int → Int) (gr : Group) (l : Nat) (m : Word) : Nat × Word :=
  let t := Table.typeOf m
  let w := Table.wideType m
  let a := vRead gr l v.a w
  let b := vRead gr l v.b w
  mapElems t fun i => fitInt t (Table.satOf m) (k (intOf t (elemAt t a i)) (intOf t (elemAt t b i)))

/-- ADD (R63). -/
def addFx (v : Env) : Eff := v.laneResult Table.wideType (intBin v fun a b => a + b)
def execAdd (d a b : Byte) (s : State) : Out := issue1 0x20 d a b addFx s
/-- SUB (R63). -/
def subFx (v : Env) : Eff := v.laneResult Table.wideType (intBin v fun a b => a - b)
def execSub (d a b : Byte) (s : State) : Out := issue1 0x21 d a b subFx s
/-- MUL (R63). -/
def mulFx (v : Env) : Eff := v.laneResult Table.wideType (intBin v fun a b => a * b)
def execMul (d a b : Byte) (s : State) : Out := issue1 0x22 d a b mulFx s

/-- MULH (R63): the high half of the product, which always fits. -/
def mulhFx (v : Env) : Eff :=
  v.laneResult Table.wideType fun gr l m =>
    intBin v (fun a b => a * b / 2 ^ elemBits (Table.typeOf m)) gr l m
def execMulh (d a b : Byte) (s : State) : Out := issue1 0x23 d a b mulhFx s

/-- MAD (R64): only the sum is fitted. -/
def madFx (v : Env) : Eff :=
  v.laneResult Table.wideType fun gr l m =>
    let t := Table.typeOf m
    let w := Table.wideType m
    let a := vRead gr l v.a w
    let b := vRead gr l v.b w
    let d := vRead gr l v.d w
    mapElems t fun i =>
      fitInt t (Table.satOf m) (intOf t (elemAt t a i) * intOf t (elemAt t b i) + intOf t (elemAt t d i))
def execMad (d a b : Byte) (s : State) : Out := issue1 0x24 d a b madFx s

/-- MIN (R63). -/
def minFx (v : Env) : Eff := v.laneResult Table.wideType (intBin v fun a b => if a ≤ b then a else b)
def execMin (d a b : Byte) (s : State) : Out := issue1 0x25 d a b minFx s
/-- MAX (R63). -/
def maxFx (v : Env) : Eff := v.laneResult Table.wideType (intBin v fun a b => if a ≤ b then b else a)
def execMax (d a b : Byte) (s : State) : Out := issue1 0x26 d a b maxFx s

/-- ADDI (R72): the immediate is a signed byte. -/
def addiFx (v : Env) : Eff :=
  v.laneResult Table.wideType fun gr l m =>
    let t := Table.typeOf m
    let a := vRead gr l v.a (Table.wideType m)
    mapElems t fun i => fitInt t (Table.satOf m) (intOf t (elemAt t a i) + (BitVec.ofNat 8 v.b).toInt)
def execAddi (d a b : Byte) (s : State) : Out := issue1 0x35 d a b addiFx s

/-! ## Logic and copies (R65, R69) -/

/-- A bitwise operation of the width that TYPE decides. -/
def bitBin (v : Env) (k : Nat → Nat → Nat) (gr : Group) (l : Nat) (m : Word) : Nat × Word :=
  let w := Table.wideType m
  (k (vRead gr l v.a w) (vRead gr l v.b w), 0)

/-- AND (R65). -/
def andFx (v : Env) : Eff := v.laneResult Table.wideType (bitBin v fun a b => a &&& b)
def execAnd (d a b : Byte) (s : State) : Out := issue1 0x27 d a b andFx s
/-- OR (R65). -/
def orFx (v : Env) : Eff := v.laneResult Table.wideType (bitBin v fun a b => a ||| b)
def execOr (d a b : Byte) (s : State) : Out := issue1 0x28 d a b orFx s
/-- XOR (R65). -/
def xorFx (v : Env) : Eff := v.laneResult Table.wideType (bitBin v fun a b => a ^^^ b)
def execXor (d a b : Byte) (s : State) : Out := issue1 0x29 d a b xorFx s
/-- ANDN (R65): v[A] and not v[B]. -/
def andnFx (v : Env) : Eff := v.laneResult Table.wideType (bitBin v fun a b => a ^^^ (a &&& b))
def execAndn (d a b : Byte) (s : State) : Out := issue1 0x2A d a b andnFx s

/-- MOV (R65). -/
def movFx (v : Env) : Eff :=
  v.laneResult Table.wideType fun gr l m => (vRead gr l v.a (Table.wideType m), 0)
def execMov (d a b : Byte) (s : State) : Out := issue1 0x39 d a b movFx s

/-- SEL (R69): every active lane writes; the guard selects. -/
def selFx (v : Env) : Eff :=
  v.onGroup (each v.act fun l gr =>
    let w := Table.wideType (modeOf gr (l / 4))
    vWrite gr l v.d w (vRead gr l (if guardOn gr l then v.a else v.b) w))
def execSel (d a b : Byte) (s : State) : Out := issue1 0x33 d a b selFx s

/-! ## Shifts (R66) -/

/-- SHL and SHLI of one register's or pair's bits by n. -/
def shlBits (m : Word) (a n : Nat) : Nat × Word :=
  let t := Table.typeOf m
  mapElems t fun i => fitInt t (Table.satOf m) (intOf t (elemAt t a i) * 2 ^ n)
/-- SHR and SHRI. -/
def shrBits (m : Word) (a n : Nat) : Nat × Word :=
  let t := Table.typeOf m
  mapElems t fun i => (elemAt t a i / 2 ^ n, 0)
/-- SAR and SARI: filled with the element's top bit whatever its signedness. -/
def sarBits (m : Word) (a n : Nat) : Nat × Word :=
  let t := Table.typeOf m
  let w := elemBits t
  mapElems t fun i =>
    let x := elemAt t a i
    let sv : Int := if 2 ^ (w - 1) ≤ x then (x : Int) - 2 ^ w else x
    (wrapInt t (sv / 2 ^ n), 0)

/-- A shift by the low six bits of the single register v[B]. -/
def shiftReg (v : Env) (k : Word → Nat → Nat → Nat × Word) : Eff :=
  v.laneResult Table.wideType fun gr l m =>
    k m (vRead gr l v.a (Table.wideType m)) ((vGet gr l v.b).toNat % 64)
/-- A shift by the field B. -/
def shiftImm (v : Env) (k : Word → Nat → Nat → Nat × Word) : Eff :=
  v.laneResult Table.wideType fun gr l m => k m (vRead gr l v.a (Table.wideType m)) v.b

def execShl (d a b : Byte) (s : State) : Out := issue1 0x2B d a b (fun v => shiftReg v shlBits) s
def execShr (d a b : Byte) (s : State) : Out := issue1 0x2C d a b (fun v => shiftReg v shrBits) s
def execSar (d a b : Byte) (s : State) : Out := issue1 0x2D d a b (fun v => shiftReg v sarBits) s
def execShli (d a b : Byte) (s : State) : Out := issue1 0x36 d a b (fun v => shiftImm v shlBits) s
def execShri (d a b : Byte) (s : State) : Out := issue1 0x37 d a b (fun v => shiftImm v shrBits) s
def execSari (d a b : Byte) (s : State) : Out := issue1 0x38 d a b (fun v => shiftImm v sarBits) s

/-! ## Bit fields and bit counts (R67, R68) -/

/-- Start and effective length of a bit field in W bits. -/
def fieldSpan (w ctl : Nat) : Nat × Nat :=
  let s := ctl % 64
  let n := ctl / 256 % 128
  (s, if s < w then min n (w - s) else 0)

/-- BFE (R67). -/
def bfeFx (v : Env) : Eff :=
  v.laneResult Table.wideType fun gr l m =>
    let t := Table.typeOf m
    let w := elemBits t
    let a := vRead gr l v.a (Table.wideType m)
    let (st, n) := fieldSpan w (vGet gr l v.b).toNat
    let f := a / 2 ^ st % 2 ^ n
    (if isSigned t && n != 0 && 2 ^ (n - 1) ≤ f then wrapInt t ((f : Int) - 2 ^ n) else f, 0)
def execBfe (d a b : Byte) (s : State) : Out := issue1 0x2E d a b bfeFx s

/-- BFI (R67). -/
def bfiFx (v : Env) : Eff :=
  v.laneResult Table.wideType fun gr l m =>
    let w := elemBits (Table.typeOf m)
    let wide := Table.wideType m
    let a := vRead gr l v.a wide
    let d := vRead gr l v.d wide
    let (st, n) := fieldSpan w (vGet gr l v.b).toNat
    (d - d / 2 ^ st % 2 ^ n * 2 ^ st + a % 2 ^ n * 2 ^ st, 0)
def execBfi (d a b : Byte) (s : State) : Out := issue1 0x2F d a b bfiFx s

/-- POPC (R68): a single register even when A is a pair. -/
def popcFx (v : Env) : Eff :=
  v.laneResult narrow fun gr l m =>
    let a := vRead gr l v.a (Table.wideType m)
    (((List.range (elemBits (Table.typeOf m))).filter fun i => a.testBit i).length, 0)
def execPopc (d a b : Byte) (s : State) : Out := issue1 0x30 d a b popcFx s

/-- CLZ (R68). -/
def clzFx (v : Env) : Eff :=
  v.laneResult narrow fun gr l m =>
    let w := elemBits (Table.typeOf m)
    let a := vRead gr l v.a (Table.wideType m)
    (if a == 0 then w else w - 1 - Nat.log2 a, 0)
def execClz (d a b : Byte) (s : State) : Out := issue1 0x31 d a b clzFx s

/-- BREV (R68). -/
def brevFx (v : Env) : Eff :=
  v.laneResult Table.wideType fun gr l m =>
    let w := elemBits (Table.typeOf m)
    let a := vRead gr l v.a (Table.wideType m)
    ((List.range w).foldl (fun acc i => if a.testBit i then acc + 2 ^ (w - 1 - i) else acc) 0, 0)
def execBrev (d a b : Byte) (s : State) : Out := issue1 0x32 d a b brevFx s

/-! ## Compare (R70, R71) -/

/-- CMP (R71): one predicate bit per lane. -/
def cmpFx (v : Env) : Eff :=
  v.perLane fun l gr =>
    let m := modeOf gr (l / 4)
    let t := Table.typeOf m
    let w := Table.wideType m
    pSet gr l (v.d % 16) (condInt (v.d / 16) (isSigned t) (elemBits t) (vRead gr l v.a w) (vRead gr l v.b w))
def execCmp (d a b : Byte) (s : State) : Out := issue1 0x34 d a b cmpFx s

/-! ## Immediates, literals, addresses (R73, R74) -/

/-- The 16-bit immediate A:B extended from its bit 15. -/
def imm16 (v : Env) : Word := (BitVec.ofNat 16 (v.a * 256 + v.b)).signExtend 32

/-- MOVI (R73). -/
def moviFx (v : Env) : Eff := v.perLane fun l gr => vSet gr l v.d (imm16 v)
def execMovi (d a b : Byte) (s : State) : Out := issue1 0x3A d a b moviFx s

/-- MOVH (R73): the low half stays. -/
def movhFx (v : Env) : Eff :=
  v.perLane fun l gr =>
    vSet gr l v.d ((BitVec.ofNat 32 (v.a * 256 + v.b) <<< 16) ||| (vGet gr l v.d &&& 0xFFFF))
def execMovh (d a b : Byte) (s : State) : Out := issue1 0x3B d a b movhFx s

/-- LIT (R73). -/
def litFx (v : Env) : Eff := v.perLane fun l gr => vSet gr l v.d v.l
def execLit (d a b : Byte) (l : Word) (s : State) : Out := issueOp 0x3C d a b l litFx s

/-- LEA (R74): base of the quad's own pair plus a scaled index. -/
def leaFx (v : Env) : Eff :=
  v.perLane fun l gr =>
    let size := Table.sizeOf' (Table.msizeOf (modeOf gr (l / 4)))
    vSetPair gr l v.d (sPair gr (l / 4) v.a + zext (vGet gr l v.b) * BitVec.ofNat 64 size)
def execLea (d a b : Byte) (s : State) : Out := issue1 0x3D d a b leaFx s

/-- ADDX (R74). -/
def addxFx (v : Env) : Eff :=
  v.perLane fun l gr => vSetPair gr l v.d (vPair gr l v.a + zext (vGet gr l v.b))
def execAddx (d a b : Byte) (s : State) : Out := issue1 0x3E d a b addxFx s

end Sys2Proof.Machine
end

