-- ==== Sys2Proof/Machine/Sequencer.lean ====
section
/-!
DEFINITION. The sequencer's arithmetic and the moves between the two register files (R83 to R86, R88, R89).
-/

namespace Sys2Proof.Machine

/-- A sequencer operation of each quad on s[A] and s[B]. -/
def seqBin (v : Env) (k : Word → Word → Word) : Eff :=
  v.perQuad fun q gr => sSet gr q v.d (k (sGet gr q v.a) (sGet gr q v.b))

/-- SADD (R84). -/
def saddFx (v : Env) : Eff := seqBin v fun a b => a + b
def execSadd (d a b : Byte) (s : State) : Out := issue1 0x58 d a b saddFx s
/-- SSUB (R84). -/
def ssubFx (v : Env) : Eff := seqBin v fun a b => a - b
def execSsub (d a b : Byte) (s : State) : Out := issue1 0x59 d a b ssubFx s
/-- SMUL (R84). -/
def smulFx (v : Env) : Eff := seqBin v fun a b => a * b
def execSmul (d a b : Byte) (s : State) : Out := issue1 0x5A d a b smulFx s
/-- SAND (R84). -/
def sandFx (v : Env) : Eff := seqBin v fun a b => a &&& b
def execSand (d a b : Byte) (s : State) : Out := issue1 0x5B d a b sandFx s
/-- SOR (R84). -/
def sorFx (v : Env) : Eff := seqBin v fun a b => a ||| b
def execSor (d a b : Byte) (s : State) : Out := issue1 0x5C d a b sorFx s
/-- SXOR (R84). -/
def sxorFx (v : Env) : Eff := seqBin v fun a b => a ^^^ b
def execSxor (d a b : Byte) (s : State) : Out := issue1 0x5D d a b sxorFx s
/-- SSHL (R84): 0 for a count of 32 or more. -/
def sshlFx (v : Env) : Eff := seqBin v fun a b => a <<< (b.toNat % 64)
def execSshl (d a b : Byte) (s : State) : Out := issue1 0x5E d a b sshlFx s
/-- SSHR (R84). -/
def sshrFx (v : Env) : Eff := seqBin v fun a b => a >>> (b.toNat % 64)
def execSshr (d a b : Byte) (s : State) : Out := issue1 0x5F d a b sshrFx s

/-- SCMP (R85): every active lane of the quad, whatever its guard. -/
def scmpFx (v : Env) : Eff :=
  v.onGroup (each v.act fun l gr =>
    pSet gr l (v.d % 16) (condSeq (v.d / 16) (sGet gr (l / 4) v.a) (sGet gr (l / 4) v.b)))
def execScmp (d a b : Byte) (s : State) : Out := issue1 0x60 d a b scmpFx s

/-- SMOV (R86). -/
def smovFx (v : Env) : Eff := v.perQuad fun q gr => sSet gr q v.d (sGet gr q v.a)
def execSmov (d a b : Byte) (s : State) : Out := issue1 0x61 d a b smovFx s
/-- SMOVI (R86). -/
def smoviFx (v : Env) : Eff := v.perQuad fun q gr => sSet gr q v.d (imm16 v)
def execSmovi (d a b : Byte) (s : State) : Out := issue1 0x62 d a b smoviFx s
/-- SLIT (R86). -/
def slitFx (v : Env) : Eff := v.perQuad fun q gr => sSet gr q v.d v.l
def execSlit (d a b : Byte) (l : Word) (s : State) : Out := issueOp 0x63 d a b l slitFx s
/-- SADDX (R86). -/
def saddxFx (v : Env) : Eff :=
  v.perQuad fun q gr => sSetPair gr q v.d (sPair gr q v.a + zext (sGet gr q v.b))
def execSaddx (d a b : Byte) (s : State) : Out := issue1 0x64 d a b saddxFx s

/-- BCAST (R88). -/
def bcastFx (v : Env) : Eff := v.perLane fun l gr => vSet gr l v.d (sGet gr (l / 4) v.a)
def execBcast (d a b : Byte) (s : State) : Out := issue1 0x67 d a b bcastFx s

/-- RDLN (R89): a dead or exited lane reads as 0, with the dead-read flag in the quad's active lanes. -/
def rdlnFx (v : Env) : Eff :=
  v.perQuad fun q gr =>
    let l := 4 * q + v.b
    if laneLive gr l then sSet gr q v.d (vGet gr l v.a)
    else each (v.act.filter (· / 4 == q)) (fun j gr => orFlags gr j flDeadRead) (sSet gr q v.d 0)
def execRdln (d a b : Byte) (s : State) : Out := issue1 0x68 d a b rdlnFx s

end Sys2Proof.Machine
end

