-- ==== Sys2Proof/Machine/Exchange.lean ====
section
/-!
DEFINITION. Cross-lane exchange (R127 to R132).
-/

namespace Sys2Proof.Machine

/-- What a lane takes from source lane j (R127): the register's value, or 0 with the dead-read flag. A register above
the source quad's allocation shows a free value: the spec states none. -/
def takeFrom (v : Env) (j : Nat) : Word × Word :=
  if !(laneLive v.gr j) then (0, flDeadRead)
  else if (quadAt v.gr (j / 4)).alloc ≤ v.a then (Config.beyondAlloc v.s.tick j v.a, 0)
  else (vGet v.gr j v.a, 0)

/-- QSWZ, SHFL, SHFX and SHUP: every guarded lane takes its source lane's register as it stood before the instruction. -/
def shuffleFx (v : Env) : Eff :=
  v.perLane fun l gr =>
    let r := match sourceLane v.gr v.op v.b l with
      | some j => takeFrom v j
      | none => (0, 0)
    orFlags (vSet gr l v.d r.1) l r.2

/-- QSWZ (R128). -/
def execQswz (d a b : Byte) (s : State) : Out := issue1 0x70 d a b shuffleFx s
/-- SHFL (R129). -/
def execShfl (d a b : Byte) (s : State) : Out := issue1 0x71 d a b shuffleFx s
/-- SHFX (R129). -/
def execShfx (d a b : Byte) (s : State) : Out := issue1 0x72 d a b shuffleFx s
/-- SHUP (R130). -/
def execShup (d a b : Byte) (s : State) : Out := issue1 0x73 d a b shuffleFx s

/-- The active lanes of S that are not helper lanes. -/
def Env.realAct (v : Env) : List Nat := v.act.filter fun l => !(laneAt v.gr l).helper

/-- VOTE (R131). -/
def voteFx (v : Env) : Eff :=
  let m : DWord := maskOf 64 (v.realAct.filter fun l => pGet v.gr l (v.a % 16))
  v.perQuad fun q gr => sSetPair gr q v.d m
def execVote (d a b : Byte) (s : State) : Out := issue1 0x74 d a b voteFx s

/-- VTST (R132). -/
def vtstFx (v : Env) : Eff :=
  let ps := v.realAct.map fun l => pGet v.gr l (v.a % 16)
  let r := match v.b with
    | 0 => ps.any id
    | 1 => ps.all id
    | _ => ps.all id || !(ps.any id)
  v.perLane fun l gr => pSet gr l (v.d % 16) r
def execVtst (d a b : Byte) (s : State) : Out := issue1 0x75 d a b vtstFx s

end Sys2Proof.Machine
end

