-- ==== Sys2Proof/Machine/Fetch.lean ====
section
/-!
DEFINITION. Fetching a line and checking its header (R12, R13, R16), arrival at a slot (R15, R111), the wait bit (R17,
R18, R253), and what a split issues next.
-/

namespace Sys2Proof.Machine

/-- Whether the START map agrees with the lengths of the instructions in slots i to last (R13, R9). -/
def startOk (line : List Byte) (start last : Nat) : Nat → Nat → Bool
  | 0, _ => true
  | fuel + 1, i =>
    if last < i then true
    else if !hdrBit start i then false
    else if isTwoWord (opcodeOf (slotWord line i)) then
      i < last && !hdrBit start (i + 1) && startOk line start last fuel (i + 2)
    else startOk line start last fuel (i + 1)

/-- The header checks of R13. -/
def headerOk (line : List Byte) : Bool :=
  let h := lineHeader line
  let last := hdrLast h
  let top := 2 ^ (last + 1)
  let start := hdrStart h
  let subset (m : Nat) : Bool := (List.range 28).all fun i => !hdrBit m i || hdrBit start i
  hdrVer h == 1 && hdrRsvd h == 0 && last ≤ 27
    && start < top && hdrTarget h < top && hdrBound h < top && hdrWait h < top
    && startOk line start last 28 0
    && subset (hdrWait h) && subset (hdrBound h) && subset (hdrTarget h)

/-- Whether a split holds the line of its PC. -/
def lineHere (sp : Split) : Bool := !sp.line.isEmpty && sp.lineVa == lineOf sp.pc

/-- Whether a split may issue at all: valid, holding a jet, with a lane that runs or has still to fault, its group neither ended
nor stopped nor restarting. -/
def mayIssue (s : State) (g e : Nat) : Bool :=
  let gr := groupAt s g
  let sp := splitAt gr e
  sp.valid && sp.st == .issuing && !sp.halted && (sp.act != 0 || !sp.owed.isEmpty) && !gr.gone && !gr.killed && !gr.stopped
    && !gr.restarting && !s.off && !(clockGated s gr.part gr.core)

/-- A fault of every active lane at a fetch (R13, R239): the run ends and the lanes trap. -/
def fetchFault (s : State) (g e code : Nat) (ft : Bool) : State :=
  let sp := splitAt (groupAt s g) e
  trapRun s g
    { entry := e, lanes := sameFault (bitsOf sp.act) code (lineOf sp.pc), ft := if ft then sp.act else 0, fpc := sp.pc
      resume := .fetch, arrive := sp.arrive }

/-- FETCH_LINE (R13): the line of the split's PC is translated as a fetch (R239), read as one whole (R16) and checked. -/
def execFetchLine (g e : Nat) (s : State) : Out :=
  let gr := groupAt s g
  let sp := splitAt gr e
  if !(mayIssue s g e) || lineHere sp then .next s
  else
    let va := lineOf sp.pc
    let page := va.toNat / 65536
    let l := (bitsOf sp.act).headD 0
    let v : Viewer := .lane g l s.nextId
    -- the walk reads after what precedes the fetch in its lane, and as an acquire (R240); a fetch has no class (log 64)
    let ready :=
      if (cached s gr.part gr.core page).isSome then some s
      else if !(walkDue s gr.part gr.core page { s := 4095, t0 := s.now }) then none
      else (walkReady s g l s.nextId).map fun s => noteAcquire (recallWalk s v gr.part gr.core va) g
    match ready with
    | none => .next s
    | some s =>
    match ((cached s gr.part gr.core page).map Walk.leaf).getD (walk s v gr.part va) with
    | .leaf l =>
      let s := ctlbFill (tlbFill s gr.part gr.core page l) gr.part gr.core page l
      let c := leafCheck l (!(isSuper s g e)) .fetch
      let loc := leafLoc gr.part l va
      if c != 0 then .next (fetchFault s g e c false)
      else if !(ownsLoc s gr.part loc) then .next (fetchFault (ringForeign s g va (loc.addr / 65536)) g e 1 false)
      else
        let line := viewBytes s v gr.part (replicaLoc s gr.part .read false loc) 128
        if headerOk line then
          .next (modGroup s g fun gr => modSplit gr e fun sp => { sp with line := line, lineVa := va })
        else .next (fetchFault s g e 17 false)
    | .lostPeer => .next (fetchFault (noteWalk v gr.part va s) g e 13 false)
    | .foreign f => .next (fetchFault (ringForeign s g va f) g e 1 false)
    | .bad ft => .next (fetchFault s g e 1 ft)

/-- Whether a lane may arrive at an address (R15, R120): it is a slot with its TARGET bit set, and slot 0 where a call
goes there. -/
def arrivalOk (sp : Split) (a : Arrive) : Bool :=
  let off := sp.pc.toNat % 128
  16 ≤ off && off % 4 == 0 && hdrBit (hdrTarget (lineHeader sp.line)) (slotOf sp.pc) && (!a.slot0 || off == 16)

/-- Lanes of the split that a late or lost result has marked (R253). -/
def markedLanes (gr : Group) (sp : Split) : List (Nat × Nat × DWord) :=
  (bitsOf sp.act).filterMap fun l => (laneAt gr l).mark.map fun m => (l, m.1, m.2)

/-- Takes the marks of the split's lanes: they leave active(S) for the instruction and fault with it (R253). -/
def takeMarks (s : State) (g e : Nat) : State :=
  modGroup s g fun gr =>
    let ms := markedLanes gr (splitAt gr e)
    let gr := each (ms.map (·.1)) (fun l gr => modLane gr l fun ln => { ln with mark := none }) gr
    modSplit gr e fun sp =>
      { sp with marked := sp.marked ++ ms, act := sp.act &&& ~~~(maskOf 64 (ms.map (·.1))) }

/-- Transfers of control, JOIN and RETT: the lanes of a quad execute them together (log 56). -/
def movesQuads (op : Nat) : Bool := (0x01 ≤ op && op ≤ 0x09) || op == 0x14

/-- Transfers of Table 15.4: JOIN, at which the whole split arrives too, is none. -/
def transfersQuads (op : Nat) : Bool := movesQuads op && op != 0x04

/-- Instructions at which a split parks until another agent acts. -/
def parksSplit (op : Nat) : Bool :=
  op == 0x0C || op == 0x0D || op == 0xA0 || op == 0xA1 || op == 0xA2 || op == 0xA4 || op == 0xA5 || op == 0xC4

/-- The marked lanes that fault before the instruction of opcode op issues; the others' quads execute it first (R253). At a
transfer that is all of them, with their quads, which execute it afterwards (log 56); in the handler too, which ends there. Where
the split may park, it is those of the quads that are left with no lane to execute it: another agent may wait for these. -/
def faultFirst (sp : Split) (e op : Nat) (ms : List (Nat × Nat × DWord)) : List (Nat × Nat × DWord) :=
  let left := sp.act &&& ~~~(maskOf 64 (ms.map (·.1)))
  if movesQuads op || e == 8 then ms
  else if parksSplit op || left == 0 then ms.filter fun x => left &&& quadLanes (x.1 / 4) == 0
  else []

/-- The instruction at the PC would stall its split more than 8 cycles for a register that the run has written: the split yields
its jet (R61). -/
def stallsLong (s : State) (g e : Nat) : Bool :=
  let sp := splitAt (groupAt s g) e
  let w := slotWord sp.line (slotOf sp.pc)
  sp.cycle + 9 < issueCycle s g e (opcodeOf w).toNat (fieldD w).toNat (fieldA w).toNat (fieldB w).toNat

/-- What a split does when it is given its turn. -/
inductive Turned where
  | stay (s : State)
  | run (i : Instr) (s : State)
deriving Repr

/-- The instruction at a split's PC. -/
def instrAt (sp : Split) : Instr := decodeWord (slotWord sp.line (slotOf sp.pc)) (slotWord sp.line (slotOf sp.pc + 1))

/-- Whether the instruction at the PC carries the wait bit. -/
def waits (sp : Split) : Bool := hdrBit (hdrWait (lineHeader sp.line)) (slotOf sp.pc)

/-- The first arrival check of a split that fails (R15, R111): the active lanes that were sent here take code 7. -/
def badArrival (sp : Split) : Option (Arrive × List Nat) :=
  (sp.arrive.filter fun a => !(arrivalOk sp a)).findSome? fun a =>
    match bitsOf (sp.act &&& a.lanes) with
    | [] => none
    | ls => some (a, ls)

/-- Code 7 (R15, Table 15.4): the lanes that fail trap; what they have still to be checked for goes with them. -/
def arrivalFault (s : State) (g e : Nat) (a : Arrive) (lanes : List Nat) : State :=
  let sp := splitAt (groupAt s g) e
  let ls := maskOf 64 lanes
  let back : Bool := a.within.isSome
  let arrive := if back then { a with lanes := ls } :: (sp.arrive.filter (· != a)).map fun x => { x with lanes := x.lanes &&& ~~~ls }
    else []
  trapRun (modGroup s g fun gr => modSplit gr e fun sp => { sp with arrive := sp.arrive.filter (· != a) }) g
    { entry := e, lanes := sameFault lanes 7 sp.pc, fpc := a.fpc, resume := if back then .dest sp.pc else .plain
      next := some a.next, arrive := arrive }

/-- The oldest fault that a split still owes for an instruction it has completed is raised, for the lanes that live (R253). -/
def raiseOwed (s : State) (g e : Nat) : State :=
  match (splitAt (groupAt s g) e).owed with
  | [] => s
  | r :: rest =>
    let s := modGroup s g fun gr => modSplit gr e fun sp => { sp with owed := rest }
    let lanes := r.lanes.filter fun x => laneLive (groupAt s g) x.1
    if lanes.isEmpty then s else trapRun s g { r with entry := e, lanes := lanes }

/-- Lanes of a split leave their marks behind and trap before the instruction at its PC. -/
def trapMarked (s : State) (g e : Nat) (ms : List (Nat × Nat × DWord)) (resume : Resume) : State :=
  let pc := (splitAt (groupAt s g) e).pc
  trapRun (modGroup s g (each (ms.map (·.1)) fun l gr => modLane gr l fun ln => { ln with mark := none })) g
    { entry := e, lanes := ms, fpc := pc, resume := resume }

/-- The turn of a split that holds a jet: it takes the faults it owes, fetches its line, checks its arrival, waits, or issues. A PC
beyond the last slot of its line stands for slot 0 of the next (R14). -/
def prepare (s : State) (g e : Nat) : Turned :=
  let gr := groupAt s g
  let sp := splitAt gr e
  if !(mayIssue s g e) then .stay s
  else if sp.rejoin == 0 && !sp.owed.isEmpty then .stay (raiseOwed s g e)
  else if !(lineHere sp) then .run (.fetchLine g e) s
  else if !sp.arrive.isEmpty then
    match badArrival sp with
    | some (a, ls) => .stay (arrivalFault s g e a ls)
    | none => .stay (modGroup s g fun gr => modSplit gr e fun sp => { sp with arrive := [] })
  else if hdrLast (lineHeader sp.line) < slotOf sp.pc then
    .stay (modGroup s g fun gr => modSplit gr e fun sp => { sp with pc := lineOf sp.pc + 144 })
  else
    let w : Bool := waits sp && sp.park.isNone
    let op := (opcodeOf (slotWord sp.line (slotOf sp.pc))).toNat
    let first := if w then faultFirst sp e op (markedLanes gr sp) else []
    if w && splitAwaits gr e then
      let s := modGroup s g fun gr => modSplit gr e fun sp => { sp with st := .waitBit, count := 0, overdue := false }
      .stay (modGroup s g fun gr => regang gr e s.tick)
    else if (w && sp.count != 0) || stallsLong s g e then .stay (endRun s g e)
    else if !first.isEmpty then .stay (trapMarked s g e first (if transfersQuads op then .before else .plain))
    else .run (instrAt sp) { (if w then takeMarks s g e else s) with cur := some (g, e) }

end Sys2Proof.Machine
end

