-- ==== Sys2Proof/Machine/Float.lean ====
section
/-!
DEFINITION. The floating-point and conversion instructions of a lane (R75 to R82).
-/

namespace Sys2Proof.Machine

/-- A floating operation on each element of the registers (R75): f gets the format, RND and the element codes. -/
def floatElems (v : Env) (gr : Group) (l : Nat) (m : Word) (f : Fmt → Nat → Nat → Nat → Nat → Nat × Word) : Nat × Word :=
  let t := Table.typeOf m
  let fm := (fmtOf t).getD fp32
  let a := vRead gr l v.a false
  let b := vRead gr l v.b false
  let d := vRead gr l v.d false
  mapElems t fun i => f fm (Table.rndOf m) (elemAt t a i) (elemAt t b i) (elemAt t d i)

/-- The frame of a floating instruction. -/
def Env.floatResult (v : Env) (f : Fmt → Nat → Nat → Nat → Nat → Nat × Word) : Eff :=
  v.laneResult narrow fun gr l m => floatElems v gr l m f

/-- FADD (R75). -/
def faddFx (v : Env) : Eff :=
  v.floatResult fun f rnd a b _ => deliver f rnd (addF rnd (decodeF f a) (decodeF f b))
def execFadd (d a b : Byte) (s : State) : Out := issue1 0x40 d a b faddFx s
/-- FSUB (R75): the effective addends are a and −b. -/
def fsubFx (v : Env) : Eff :=
  v.floatResult fun f rnd a b _ => deliver f rnd (addF rnd (decodeF f a) (negF (decodeF f b)))
def execFsub (d a b : Byte) (s : State) : Out := issue1 0x41 d a b fsubFx s
/-- FMUL (R75). -/
def fmulFx (v : Env) : Eff :=
  v.floatResult fun f rnd a b _ =>
    deliver f rnd (match mulF (decodeF f a) (decodeF f b) with | none => .nan true | some p => exactOf p)
def execFmul (d a b : Byte) (s : State) : Out := issue1 0x42 d a b fmulFx s
/-- FMA (R76). -/
def fmaFx (v : Env) : Eff :=
  v.floatResult fun f rnd a b d => deliver f rnd (fmaF rnd false (decodeF f a) (decodeF f b) (decodeF f d))
def execFma (d a b : Byte) (s : State) : Out := issue1 0x43 d a b fmaFx s
/-- FNMA (R76). -/
def fnmaFx (v : Env) : Eff :=
  v.floatResult fun f rnd a b d => deliver f rnd (fmaF rnd true (decodeF f a) (decodeF f b) (decodeF f d))
def execFnma (d a b : Byte) (s : State) : Out := issue1 0x44 d a b fnmaFx s
/-- FMIN (R75). -/
def fminFx (v : Env) : Eff := v.floatResult fun f _ a b _ => (minMaxF f false a b, 0)
def execFmin (d a b : Byte) (s : State) : Out := issue1 0x45 d a b fminFx s
/-- FMAX (R75). -/
def fmaxFx (v : Env) : Eff := v.floatResult fun f _ a b _ => (minMaxF f true a b, 0)
def execFmax (d a b : Byte) (s : State) : Out := issue1 0x46 d a b fmaxFx s

/-- FCMP (R71). -/
def fcmpFx (v : Env) : Eff :=
  v.perLane fun l gr =>
    pSet gr l (v.d % 16) (condF (v.d / 16) (vGet gr l v.a).toNat (vGet gr l v.b).toNat)
def execFcmp (d a b : Byte) (s : State) : Out := issue1 0x47 d a b fcmpFx s

/-- RSQ (R77, R53). -/
def rsqFx (v : Env) : Eff := v.floatResult fun _ _ a _ _ => rsqF a
def execRsq (d a b : Byte) (s : State) : Out := issue1 0x48 d a b rsqFx s
/-- RCP (R77, R54). -/
def rcpFx (v : Env) : Eff := v.floatResult fun _ _ a _ _ => rcpF a
def execRcp (d a b : Byte) (s : State) : Out := issue1 0x49 d a b rcpFx s
/-- EX2 (R77, R55). -/
def ex2Fx (v : Env) : Eff := v.floatResult fun _ _ a _ _ => ex2F a
def execEx2 (d a b : Byte) (s : State) : Out := issue1 0x4A d a b ex2Fx s
/-- LG2 (R77, R55). -/
def lg2Fx (v : Env) : Eff := v.floatResult fun _ _ a _ _ => lg2F a
def execLg2 (d a b : Byte) (s : State) : Out := issue1 0x4B d a b lg2Fx s

/-- FRND (R78). -/
def frndFx (v : Env) : Eff := v.floatResult fun f rnd a _ _ => frndF f rnd a
def execFrnd (d a b : Byte) (s : State) : Out := issue1 0x4C d a b frndFx s
/-- FCLS (R79). -/
def fclsFx (v : Env) : Eff := v.floatResult fun f _ a _ _ => (classOf f a, 0)
def execFcls (d a b : Byte) (s : State) : Out := issue1 0x4D d a b fclsFx s

/-! ## Conversions (R80, R81) -/

/-- The elements of one register or pair. -/
def elemsOf (t x : Nat) : List Nat := (List.range (elemCount t)).map (elemAt t x)

/-- nd destination elements from a source sequence, with the OR of their flags (R81). -/
def convertSeq (t d nd : Nat) (m : Word) (src : List Nat) : List Nat × Word :=
  let rs := (List.range nd).map fun j =>
    match src[j]? with
    | some x => convert t d (Table.rndOf m) (Table.satOf m) x
    | none => (zeroOf d, 0)
  (rs.map (·.1), orAll (rs.map (·.2)))

/-- CVT (R80). -/
def cvtFx (v : Env) : Eff :=
  v.laneResult narrow fun gr l m =>
    let t := Table.typeOf m
    let (xs, fl) := convertSeq t v.b (elemCount v.b) m (elemsOf t (vGet gr l v.a).toNat)
    (packElems v.b xs, fl)
def execCvt (d a b : Byte) (s : State) : Out := issue1 0x4E d a b cvtFx s

/-- CVTN (R80): from a pair. -/
def cvtnFx (v : Env) : Eff :=
  v.laneResult narrow fun gr l m =>
    let t := Table.typeOf m
    let src := if Table.wideType m then [(vPair gr l v.a).toNat]
      else elemsOf t (vGet gr l v.a).toNat ++ elemsOf t (vGet gr l (v.a + 1)).toNat
    let (xs, fl) := convertSeq t v.b (elemCount v.b) m src
    (packElems v.b xs, fl)
def execCvtn (d a b : Byte) (s : State) : Out := issue1 0x4F d a b cvtnFx s

/-- CVTW (R80): to a pair. -/
def cvtwFx (v : Env) : Eff :=
  v.laneResult (fun _ => true) fun gr l m =>
    let t := Table.typeOf m
    let src := elemsOf t (vGet gr l v.a).toNat
    let (xs, fl) := convertSeq t v.b (if v.b == 12 || v.b == 13 then 1 else 2 * elemCount v.b) m src
    (packElems v.b xs, fl)
def execCvtw (d a b : Byte) (s : State) : Out := issue1 0x50 d a b cvtwFx s

/-- TWOS (R82). -/
def twosFx (v : Env) : Eff :=
  v.perLane fun l gr =>
    let a := (vGet gr l v.a).toNat
    let b := (vGet gr l v.b).toNat
    let (x, t) := twoSum a b
    let fl := (deliver fp32 0 (addF 0 (decodeF fp32 a) (decodeF fp32 b))).2 &&& (flInvalid ||| flOverflow)
    let gr := vSetRun gr l v.d [BitVec.ofNat 32 x, if notFinite x then 0 else BitVec.ofNat 32 t]
    orFlags gr l fl
def execTwos (d a b : Byte) (s : State) : Out := issue1 0x51 d a b twosFx s

end Sys2Proof.Machine
end

