-- ==== Sys2Proof/Machine/Flow.lean ====
section
/-!
DEFINITION. Transfers of control, regions and the leaving of lanes (R111 to R117, R120 to R122): BRA, BRS, BRD, JOIN,
BRK, CALL, CALLI, RET, EXIT, DEMOTE.
-/

namespace Sys2Proof.Machine

/-- addr + 4 × a signed offset in words (R111). -/
def offsetAddr (pc : DWord) (off : Int) : DWord := pc + BitVec.ofInt 64 (4 * off)

/-- The next instruction after the one that the split issues. -/
def Env.nextPc (v : Env) : DWord := nextAddr v.sp v.pc ((Table.row v.op).getD {}).words

/-- The split's lanes that go on with a transfer: those active, and those that rejoin after this instruction. -/
def Env.going (v : Env) : LaneMask := v.sp.act ||| v.sp.rejoin

/-- The issuing split after a transfer to pc with a set of quads. -/
def Env.moved (v : Env) (pc : DWord) (quads : QuadMask) (arr : List Arrive) (sp : Split) : Split :=
  { sp with pc := pc, qmask := quads, act := v.going &&& lanesOfQuads quads, rejoin := 0, arrive := arr
            park := none, count := sp.count + 1 }

/-- A split that a transfer forms. -/
def Env.formed (v : Env) (pc : DWord) (quads : QuadMask) (inner : Option Nat) (arr : List Arrive)
    (pass : Option Nat) : Split :=
  { valid := true, qmask := quads, pc := pc, act := v.going &&& lanesOfQuads quads, inner := inner, arrive := arr
    inPass := pass, age := v.s.tick }

/-- Code 14 (R105, R246): it is recorded in every live lane of the group; the split's active lanes enter the handler;
SOVF counts it (Table 14.2). -/
def Env.overflow (v : Env) : Eff :=
  let va := spillVa v.s v.g
  let s := modGroup v.s v.g fun gr => recordFault gr (liveLanes gr) 14 va
  { s := modGrid s (wgOf s v.g).grid fun gd => { gd with sovf := gd.sovf + 1 }, faults := sameFault v.act 14 va
    flow := .placed true }

/-! ## Quad-uniform transfers (R112) -/

/-- R112: quads with one destination move together; dest gives a quad's destination, arr the arrival check that the quads
sent to a destination make there. post writes the link. -/
def Env.transfer (v : Env) (dest : Nat → DWord) (arr : DWord → QuadMask → List Arrive) (post : Group → Group) : Eff :=
  let keep := dest v.q0
  let others := (distinct (v.quads.map dest)).filter (· != keep)
  if !others.isEmpty && v.e == 8 then v.allFault 5 v.pc
  else if freeEntries v.gr < others.length then { s := v.s, flow := .yield }
  else
    let quadsTo (t : DWord) : QuadMask := maskOf 16 (v.quads.filter fun k => dest k == t)
    let gone := others.foldl (fun m t => m ||| quadsTo t) 0
    let s := modGroup v.s v.g fun gr =>
      let gr := others.foldl (fun gr t =>
        match freeEntry gr with
        | some n => modSplit gr n fun _ => v.formed t (quadsTo t) v.sp.inner (arr t (quadsTo t)) v.sp.inPass
        | none => gr) (post gr)
      let stay := v.sp.qmask &&& ~~~gone
      modSplit gr v.e (v.moved keep stay (arr keep stay))
    { s := s, flow := .placed false }

/-- The arrival check of some lanes. -/
def Env.arrives (v : Env) (lanes : LaneMask) (slot0 : Bool) (within : Option Nat) : List Arrive :=
  [{ lanes := lanes, fpc := v.pc, next := v.nextPc, slot0 := slot0, within := within }]

/-- The arrival check of the lanes that go with some quads. -/
def Env.lands (v : Env) (slot0 : Bool) (quads : QuadMask) : List Arrive :=
  v.arrives (v.going &&& lanesOfQuads quads) slot0 none

/-- BRA (R113). -/
def braFx (v : Env) : Eff :=
  v.transfer (fun _ => offsetAddr v.pc v.l.toInt) (fun _ => v.lands false) id
def execBra (d a b : Byte) (l : Word) (s : State) : Out := issueOp 0x01 d a b l braFx s

/-- BRS (R114): the fall-through is no transfer to a slot (R14, R15), also where the target is the next instruction. -/
def brsFx (v : Env) : Eff :=
  let target := offsetAddr v.pc v.l.toInt
  let holds (k : Nat) : Bool := condSeq' (v.d / 16) (sGet v.gr k v.a) (sGet v.gr k v.b)
  v.transfer (fun k => if holds k then target else v.nextPc)
    (fun t _ => if t == target && v.quads.any holds then v.lands false (maskOf 16 (v.quads.filter holds)) else []) id
where
  /-- Table 5.4 on sequencer registers. -/
  condSeq' (cc : Nat) (a b : Word) : Bool := condSeq cc a b
def execBrs (d a b : Byte) (l : Word) (s : State) : Out := issueOp 0x02 d a b l brsFx s

/-- Writes the link to the quads that hold an active lane (R120). -/
def Env.link (v : Env) : Group → Group := each v.quads fun k gr => sSetPair gr k v.d v.nextPc

/-- CALL (R120). -/
def callFx (v : Env) : Eff :=
  v.transfer (fun _ => offsetAddr v.pc v.l.toInt) (fun _ => v.lands true) v.link
def execCall (d a b : Byte) (l : Word) (s : State) : Out := issueOp 0x07 d a b l callFx s

/-- CALLI (R120): the target is read before the link is written. -/
def calliFx (v : Env) : Eff := v.transfer (fun k => sPair v.gr k v.a) (fun _ => v.lands true) v.link
def execCalli (d a b : Byte) (s : State) : Out := issue1 0x08 d a b calliFx s

/-- RET (R120). -/
def retFx (v : Env) : Eff := v.transfer (fun k => sPair v.gr k v.a) (fun _ => v.lands false) id
def execRet (d a b : Byte) (s : State) : Out := issue1 0x09 d a b retFx s

/-! ## Divergent branch and join (R98, R99, R115, R116) -/

/-- BRD (R98, R115, R133). -/
def brdFx (v : Env) : Eff :=
  let target := offsetAddr v.pc (v.l.extractLsb' 0 16).toInt
  let join := offsetAddr v.pc (v.l.extractLsb' 16 16).toInt
  let pred (l : Nat) : Bool := pGet v.gr l (v.d % 16)
  let lanesIn (k : Nat) : List Nat := v.act.filter (· / 4 == k)
  let taken := v.quads.filter fun k => (lanesIn k).all pred
  let mixed := v.quads.filter fun k => (lanesIn k).any pred && !((lanesIn k).all pred)
  let s0 := modGroup v.s v.g fun gr => modSplit gr v.e fun sp => { sp with act := v.going, rejoin := 0 }
  match openRegion s0 v.g v.e join target v.pc v.nextPc false with
  | none => v.overflow
  | some (s, n) =>
    let arr (qs : QuadMask) : List Arrive := v.arrives (v.going &&& lanesOfQuads qs) false (some n)
    let whole := v.e != 8 && mixed.isEmpty && taken.length == v.quads.length
    let tq : QuadMask := maskOf 16 taken
    let gr := groupAt s v.g
    let (gr, mixed) :=
      if whole then (modSplit gr v.e fun sp => v.moved target v.sp.qmask (arr v.sp.qmask) { sp with inner := some n }, [])
      else
        match (if v.e == 8 || taken.isEmpty then none else freeEntry gr) with
        | some e' =>
          let gr := modSplit gr e' fun _ => v.formed target tq (some n) (arr tq) v.sp.inPass
          (modSplit gr v.e (v.moved v.nextPc (v.sp.qmask &&& ~~~tq) []), mixed)
        | none => (modSplit gr v.e (v.moved v.nextPc v.sp.qmask []), mixed ++ taken)
    let deferred : LaneMask := maskOf 64 (v.act.filter fun l => mixed.contains (l / 4) && pred l)
    let gr := modRegion gr n fun r => { r with defer := r.defer ||| deferred }
    let gr := modSplit gr v.e fun sp => { sp with act := sp.act &&& ~~~deferred }
    { s := settled (modGroup s v.g fun _ => gr) v.g, flow := .placed false }
def execBrd (d a b : Byte) (l : Word) (s : State) : Out := issueOp 0x03 d a b l brdFx s

/-- JOIN (R116). -/
def joinFx (v : Env) : Eff :=
  match v.sp.inner with
  | none => { s := v.s }
  | some n =>
    match regionLoad v.s v.g n with
    | none => v.overflow
    | some s =>
      if (regionAt (groupAt s v.g) n).joinpc != v.pc then { v.allFault 5 v.pc with s := s }
      else
        { s := settled (modGroup s v.g fun gr =>
            let gr := modRegion gr n fun r => { r with after := some v.nextPc }
            arriveAt (modSplit gr v.e fun sp => { sp with act := v.going, rejoin := 0, count := 0 }) v.e n) v.g
          flow := .placed true }
def execJoin (d a b : Byte) (s : State) : Out := issue1 0x04 d a b joinFx s

/-! ## BRK (R102, R103, R117) -/

/-- The n innermost records from a record outwards. -/
def regionChain (gr : Group) : Nat → Option Nat → List Nat
  | 0, _ => []
  | _, none => []
  | k + 1, some n => n :: regionChain gr k (regionAt gr n).parent

/-- Every record of a list brought into use (R105); none where one cannot be (code 14). -/
def loadAll (g : Nat) : List Nat → State → Option State
  | [], s => some s
  | n :: r, s => (regionLoad s g n).bind (loadAll g r)

/-- The record of a list, innermost first, in which quad k holds a deferred or held lane. -/
def heldIn (gr : Group) (recs : List Nat) (k : Nat) : Option Nat :=
  recs.find? fun n => let r := regionAt gr n; ((r.defer ||| r.blanes) &&& quadLanes k) != 0

/-- The instruction after the one-word instruction at an address (R14): LAST is read from the address's line. -/
def nextAfter (s : State) (g : Nat) (sp : Split) (pc : DWord) : DWord :=
  if sp.lineVa == lineOf pc then nextAddr sp pc 1
  else match unitRead s (groupAt s g).part (lineOf pc) 128 with
    | some line => nextAddr { sp with line := line, lineVa := lineOf pc } pc 1
    | none => pc + 4

/-- Places the held quads of a BRK at the joins of the records that hold them: own is the record whose quads keep the
issuing split's entry. DESIGN CHOICE (log 61): held quads of the handler split are placed in an ordinary entry too, as R102
says, although R133 has a handler take none. -/
def placeHeld (v : Env) (recs : List Nat) (own : Option Nat) (held : List (Nat × Nat)) (gr : Group) : Group :=
  (recs.filter fun m => held.any (·.2 == m)).foldl (fun gr m =>
    let qs : QuadMask := maskOf 16 ((held.filter (·.2 == m)).map (·.1))
    let parked : Split :=
      { valid := true, qmask := qs, st := .atJoin, inner := some m, pc := (regionAt gr m).joinpc, age := v.s.tick }
    if own == some m then modSplit gr v.e fun sp => { parked with handler := sp.handler }
    else match (parkedAt gr m).head? with
      | some t => modSplit gr t fun sp => { sp with qmask := sp.qmask ||| qs }
      | none => match freeEntry gr with
        | some t => modSplit gr t fun _ => parked
        | none => gr) gr

/-- BRK (R102, R117). DESIGN CHOICE (log 61): lanes of a leaving quad that wait inactive at the JOIN, during a deferred pass,
leave with their quad and stay inactive. -/
def brkFx (v : Env) : Eff :=
  let recs := regionChain v.gr v.d v.sp.inner
  if recs.length < v.d then v.allFault 5 v.pc
  else match loadAll v.g recs v.s with
  | none => v.overflow
  | some s =>
    let gr := groupAt s v.g
    let target := offsetAddr v.pc v.l.toInt
    let outer := recs.getLastD 0
    let held := (bitsOf v.sp.qmask).filterMap fun k => (heldIn gr recs k).map fun m => (k, m)
    let heldQ : QuadMask := maskOf 16 (held.map (·.1))
    let leaving := v.sp.qmask &&& ~~~heldQ
    let held_lanes := v.going &&& lanesOfQuads heldQ
    let ro := regionAt gr outer
    let badT := target != nextAfter s v.g v.sp ro.joinpc || (ro.btarget.isSome && ro.btarget != some target)
    let own := if leaving != 0 then none else (recs.find? fun m => held.any (·.2 == m))
    let need := (recs.filter fun m => held.any (·.2 == m) && own != some m && (parkedAt gr m).isEmpty).length
    if held_lanes != 0 && badT then
      { s := v.s, faults := sameFault (bitsOf (held_lanes &&& v.sp.act)) 7 target, flow := .placed true }
    else if freeEntries gr < need then { s := v.s, flow := .yield }
    else
      let gr := modRegion gr outer fun r =>
        if held_lanes == 0 then r else { r with blanes := r.blanes ||| held_lanes, btarget := some target }
      let gr := recs.foldl (fun gr n => modRegion gr n fun r =>
        -- a held quad is marked arrived in the records from rec1 to its recm
        let inside : QuadMask := maskOf 16 ((held.filter fun h => recs.idxOf n ≤ recs.idxOf h.2).map (·.1))
        { r with members := r.members &&& ~~~leaving, arrived := (r.arrived ||| inside) &&& ~~~leaving }) gr
      let gr := placeHeld v recs own held gr
      let gr := if leaving == 0 then gr else
        modSplit gr v.e fun sp =>
          { v.moved target leaving (v.lands false leaving) sp with inner := ro.parent, inPass := ro.pass }
      { s := settled (keepSpilled (groupAt s v.g) (modGroup s v.g fun _ => gr) v.g) v.g, flow := .placed (leaving == 0) }
def execBrk (d a b : Byte) (l : Word) (s : State) : Out := issueOp 0x05 d a b l brkFx s

/-! ## EXIT and DEMOTE (R121, R122) -/

/-- EXIT (R121): in the handler, the exit of the last lanes waits as RETT does. -/
def exitFx (v : Env) : Eff :=
  if v.lanes.isEmpty then { s := v.s }
  else
    let left (m : LaneMask) : LaneMask := m &&& ~~~(maskOf 64 v.lanes)
    let last := left (v.sp.act ||| v.sp.rejoin) == 0
    let ends := v.e == 8 && (match v.gr.frame with | some f => left f.flanes == 0 | none => true)
    if ends && (splitAwaits v.gr 8 || !(groupDrained v.s v.g && clusterPerformed v.s v.g)) then { s := v.s, flow := .hold .waitBit none }
    else
      let s := modGroup v.s v.g fun gr => modSplit gr v.e fun sp => stepPast sp 1
      { s := exitLanes s v.g v.lanes v.pc, flow := .placed last }
def execExit (d a b : Byte) (s : State) : Out := issue1 0x0A d a b exitFx s

/-- DEMOTE (R122). -/
def demoteFx (v : Env) : Eff := { s := demoteLanes v.s v.g v.lanes }
def execDemote (d a b : Byte) (s : State) : Out := issue1 0x0B d a b demoteFx s

end Sys2Proof.Machine
end

