-- ==== Sys2Proof/Machine/Network.lean ====
section
/-!
DEFINITION. The network (R265 to R277, R283, R301): arbitration by slack, transit windows and slot order, circuits, the
slack classes.
-/

namespace Sys2Proof.Machine

/-! ## Packets -/

/-- A packet as an arbitration point sees it. -/
structure Pkt where
  isWrite : Bool
  g : Nat
  id : Nat
  part : Nat
  core : Nat
  wg : Nat
  lane : Nat                     -- its thread index
  stage : Stage
  slack : Slack
  space : Space
  slice : Nat
  flits : Nat
  engine : Option (Nat × Nat) := none  -- command and sector of a copy engine's read
  msg : Bool := false            -- an active message
  out : Bool := false            -- a slice's write to its controller
deriving DecidableEq, Repr

/-- Home slice of the record a chase walk reads next (R193). -/
def recordSlice (s : State) (g id : Nat) : Nat :=
  match (groupAt s g).chases.find? (·.id == id) with
  | none => 0
  | some c =>
    let gr := groupAt s g
    match engineLoc s (.lane g c.lane c.id) gr.part gr.core c.user (c.recipe.nbase + c.node * c.recipe.nstride) .read with
    | .ok loc => if hasSlice loc then sliceOf loc else 0
    | .error _ => 0

/-- The other device that a chase walk is on its way to, if any (R281). -/
def walkSpace (gr : Group) (id : Nat) : Space := ((gr.chases.find? (·.id == id)).bind (·.links.head?)).getD .hbm

/-- A request as a packet. -/
def reqPkt (s : State) (g : Nat) (r : Req) : Pkt :=
  let gr := groupAt s g
  let span := match r.what with | .prefetch l => some (l, 32) | _ => loadSpan r
  { isWrite := false, g := g, id := r.id, part := gr.part, core := gr.core, wg := gr.wg, lane := tidOf gr r.lane, stage := r.stage
    slack := r.slack, space := (span.map (·.1.space)).getD (walkSpace gr r.id)
    slice := match span with | some (l, _) => sliceOf l | none => recordSlice s g r.id
    flits := 1 }

/-- A write as a packet, with the data of its whole sector request: 32 bytes of a store take two flits (R265). -/
def writePkt (s : State) (w : Write) : Pkt :=
  let data := (s.flight.filter fun x => isStore x.op && sameAck w x).foldl (fun n x => n + x.size) 0
  { isWrite := true, g := w.group, id := w.id, part := w.part, core := w.core, wg := w.wg, lane := tidOf (groupAt s w.group) w.lane, stage := w.stage
    slack := w.slack, space := w.loc.space, slice := sliceOf w.loc, flits := if isStore w.op && 32 ≤ data then 2 else 1
    engine := w.piece.map fun id => (id, 0) }

/-- A copy engine's sector read as a packet (R189). -/
def readPkt (s : State) (w : Nat) (c : Command) (o : SectorOp) : Pkt :=
  let wg := wgAt s w
  { isWrite := false, g := c.group, id := c.id, part := wg.part, core := wg.core, wg := w, lane := 0, stage := o.stage
    slack := o.slack, space := o.loc.space, slice := sliceOf o.loc, flits := 1, engine := some (c.id, o.k) }

/-- Requests that have packets of their own (an atomic's packet is its write). -/
def ownPacket (f : Fetched) : Bool := match f with | .known | .queued | .genq _ | .atomic => false | _ => true

/-- The packets of a group's requests: one for each sector request (R141). -/
def reqPackets (s : State) (g : Nat) : List Pkt :=
  let rs := (groupAt s g).reqs.filter fun r => ownPacket r.what && r.stage != .served
  (rs.filter fun r => !(rs.any fun x => x.id < r.id && sameSector r x)).map (reqPkt s g)

/-- The packets of the writes in flight: one for each sector request, none for one merged into another (R283). -/
def writePackets (s : State) : List Pkt :=
  let ws := s.flight.filter fun w => !w.applied && w.into.isNone
  (ws.filter fun w => !(ws.any fun x => x.id < w.id && sameAck w x)).map (writePkt s)

/-- The packets of a partition's messages to its peers (R278). -/
def msgPackets (s : State) (p : Nat) : List Pkt :=
  ((partAt s p).msgOut.filter (·.node != 255)).map fun m =>
    { isWrite := false, g := 0, id := m.id, part := p, core := (wgAt s m.wg).core, wg := m.wg, lane := m.msg.tid.toNat
      stage := .link, slack := m.slack, space := .peer (p * 256 + m.node), slice := 0, flits := 1, msg := true }

/-- A slice's write to its controller as a packet. -/
def outPkt (o : WriteOut) : Pkt :=
  { isWrite := false, g := 0, id := o.id, part := o.part, core := o.core, wg := o.wg, lane := 0, stage := o.stage, slack := o.slack
    space := if o.cap then .cap else .hbm, slice := o.slice, flits := 1, out := true }

/-- Every packet that is not performed or served. -/
def packets (s : State) : List Pkt :=
  (List.range s.groups.length).flatMap (reqPackets s) ++ writePackets s
  ++ ((List.range s.wgs.length).flatMap fun w => (wgAt s w).commands.flatMap fun c =>
      (c.ops.filter fun o => o.stage != .served).map (readPkt s w c))
  ++ (List.range 12).flatMap (msgPackets s)
  ++ s.hbmStacks.flatMap fun k => k.outs.map outPkt

/-- Whether a packet is served before another (R268). -/
def served (s : State) (a b : Pkt) : Bool :=
  let ra := remaining a.slack s.now
  let rb := remaining b.slack s.now
  let src (p : Pkt) : Nat := sourceNo (coreKey s p.part p.core * 2 + (if p.engine.isSome then 1 else 0))
  let older := a.slack.t0 < b.slack.t0 || (a.slack.t0 == b.slack.t0 && src a ≤ src b)
  if ra == 0 && rb == 0 then older
  else ra < rb || (ra == rb && older)

/-- The packets of a list in the order of service. -/
def inOrder (s : State) (l : List Pkt) : List Pkt := sortBy (served s) l

/-- Puts a packet at its next stage. -/
def setStage (s : State) (p : Pkt) (st : Stage) : State :=
  if p.out then
    { s with hbmStacks := upd s.hbmStacks (p.slice / 4) fun k =>
      { k with outs := if st == .served then k.outs.filter (·.id != p.id)
          else k.outs.map fun o => if o.id == p.id then { o with stage := st } else o } }
  else if p.isWrite then
    match s.flight.find? (·.id == p.id) with
    | none => s
    | some w =>
      let along (x : Write) : Bool := (sameAck w x && !x.applied) || x.id == w.id
      { s with flight := s.flight.map fun x => if along x then { x with stage := st } else x }
  else match p.engine with
    | some (id, k) =>
      let move (c : Command) : Command :=
        { c with ops := c.ops.map fun o => if o.k == k then { o with stage := st } else o }
      modWg s p.wg fun w => { w with commands := w.commands.map fun c => if c.id == id then move c else c }
    | none => match (groupAt s p.g).reqs.find? (·.id == p.id) with
      | none => s
      | some r => modGroup s p.g fun gr =>
          { gr with reqs := gr.reqs.map fun x => if sameSector r x then { x with stage := st } else x }

/-! ## Arbitration (R268, Table 16.1) -/

/-- Whether two packets are lane writes of one group. -/
def sameQueue (p q : Pkt) : Bool := p.isWrite && q.isWrite && p.engine.isNone && q.engine.isNone && q.g == p.g

/-- Whether a store that left another queue of its cluster before some write of a packet is still to be performed, and its cluster has
seen the two in that order: it lies on the packet's bytes (R154, R155), or another lane has read it before (R157). So must every
observer see them. -/
def clashes (s : State) (p : Pkt) : Bool :=
  p.isWrite && match s.flight.find? (·.id == p.id) with
    | none => false
    | some w0 => (s.flight.filter fun w => w.id == w0.id || (sameAck w0 w && !w.applied)).any fun w =>
        (s.flight.takeWhile fun x => x.id != w.id).any fun x =>
          !x.applied && isStore x.op && x.piece.isNone && x.part == w.part && x.core / 8 == w.core / 8 && x.group != w.group
            && (x.read || overlaps x.loc x.size w.loc w.size)

/-- A packet that may go on: no earlier write of its group waits at a stage before slot order, and it clashes with none. -/
def inTurn (s : State) (all : List Pkt) (p : Pkt) : Bool :=
  !(all.any fun q => sameQueue p q && sentNo s q.id < sentNo s p.id && q.stage == .cluster) && !(clashes s p)

/-- Credit that a partition has left at a stack (R301). -/
def creditOf (s : State) (st p : Nat) : Nat := nth 0 (nth {} s.hbmStacks st).credit p
def spendCredit (s : State) (st p : Nat) : State :=
  { s with hbmStacks := upd s.hbmStacks st fun k => { k with credit := upd k.credit p fun c => c - 32 } }

/-- Deliverable bandwidth of a step in MB per µs, times 1,000: bytes of credit for one per mille of share. -/
def stepBytes (step : Nat) : Nat :=
  match step with | 0 => 3000 | 1 => 2700 | 2 => 2100 | _ => 1500

/-- With each 1 µs interval every stack gives every partition its credit; what was unused lapses (R301). What reads a credit, or
changes what gives it, sees to this first. -/
def renewed (s : State) : State :=
  if s.now / 1000 ≤ s.interval then s
  else { s with
    interval := s.now / 1000
    hbmStacks := s.hbmStacks.map fun k => { k with credit := (List.range 12).map fun p => (cfgOf s p).share * stepBytes k.step } }

/-- Mergeable atomics without a return (R283): the combined operation. -/
def mergeOps (size : Nat) (a b : MemOp) : Option MemOp :=
  match a, b with
  | .atomic o t x y, .atomic o' t' x' _ =>
    if o == o' && t == t' && ((0x90 ≤ o && o ≤ 0x95) || o == 0x98) then
      (atomicNew o t size x x' 0).map fun z => .atomic o t z y
    else none
  | .redx x, .redx y => some (.redx (clamp64 (x + y)))
  | _, _ => none

/-- Whether two waiting writes may merge, the first being the earlier in coherence order: the same location, size and
generation tag, no return, and nothing of the later one's own lane left to be performed before it; no other access comes between the
lanes of one instruction (R159). -/
def mayMerge (s : State) (a b : Write) : Bool :=
  keyLt (writeKey s a) (writeKey s b) && a.ret.isNone && b.ret.isNone && a.loc == b.loc && a.size == b.size
    && a.gen == b.gen && a.part == b.part && a.loc.space != .host && !(behindOwn s b)
    && (sameRequest a b || ((performedWith s a).length == 1 && (performedWith s b).length == 1))

/-- Merges a mergeable pair that waits at a stage, whichever (R284): the earlier one carries both operands, and takes the
later one with it when it is performed. -/
def mergePair (s : State) (here : Write → Bool) : State :=
  let ws := s.flight.filter fun w => here w && !w.applied && w.into.isNone
  let pairs := ws.flatMap fun a => ws.filterMap fun b =>
    if mayMerge s a b then (mergeOps a.size a.op b.op).map fun m => (a.id, b.id, m) else none
  match pairs[Config.mergePick s.tick % max 1 pairs.length]? with
  | none => s
  | some (i, j, m) =>
    { s with flight := s.flight.map fun w =>
        if w.id == i then { w with op := m } else if w.id == j || w.into == some j then { w with into := some i } else w }

/-- The merge at one point: a slice queue or a Blurus switch. -/
def mergeAt (s : State) (pt : ArbPoint) : State :=
  match pt with
  | .slice n => mergePair s fun w => atSlice w && sliceOf w.loc == n
  | .blurus _ => mergePair s fun w => w.stage == .link
  | _ => s

/-- Whether a packet goes to a replica set whose primary this device is: it needs no link (R282). -/
def stayingHere (s : State) (p : Pkt) : Bool :=
  match p.space with | .peer k => 4096 ≤ k && setRole s p.part (k - 4096 - p.part * 256) == 0 | _ => false

/-- Whether a partition is granted Blurus queue n: electrical ports 0 to 71, then optical links. -/
def portGranted (s : State) (p n : Nat) : Bool :=
  if n < 72 then (cfgOf s p).ports.getLsbD n
  else (cfgOf s p).optical.getLsbD (n - 72) &&
    (match (nth {} s.links (n - 72)).st with | .full | .parked | .waking => true | _ => false) && (nth {} s.links (n - 72)).active != 0

/-- Whether a partition is granted some port or link that carries packets, on which one of a peer is admitted (R298). -/
def anyPort (s : State) (p : Nat) : Bool := (List.range 120).any (portGranted s p)

/-- Whether no earlier request of the same lane to the same peer still waits (R281), and, for a write, none of its group is
still to be performed anywhere (R157). -/
def peerTurn (s : State) (all : List Pkt) (p : Pkt) : Bool :=
  !(all.any fun q => q.stage == .link && q.engine.isNone && p.engine.isNone && q.wg == p.wg && q.lane == p.lane
      && q.space == p.space && q.id < p.id)
    && !(p.isWrite && ((s.flight.find? (·.id == p.id)).any (behindOwn s) || clashes s p))

/-- A request that its peer has not performed ends with a lost mark and zeros (R245). -/
def lostReq (r : Req) : Req := { r with data := some (List.replicate r.regs 0), mark := 13, stage := .served }

/-- A write that its peer has not performed is dropped (R245): a store or an atomic without a return is entered in the ring and
kept for fence.sys, an atomic with a return ends as a load does, an engine's command stops. -/
def loseWrite (peer : Nat) (s : State) (w : Write) : State :=
  let s := { modGroup s w.group fun gr => { gr with storeQ := gr.storeQ.filter (·.id != w.id) } with
    flight := s.flight.filter (·.id != w.id) }
  match w.piece, w.ret with
  | some id, _ => failCommand s w.wg id 13 none w.va.toNat
  | none, some id => fillReq s w.group id lostReq
  | none, none =>
    ringGroup (modGroup s w.group (each (bitsOf w.lanes) fun l gr => modLane gr l fun ln => { ln with lost := ln.lost.or (some w.va) }))
      w.group 5 w.va.toNat peer

/-- Whether the incarnation that a request to a peer carries is no longer the peer's (R244). -/
def staleInc (s : State) (p : Nat) (sp : Space) (inc : Nat) : Bool :=
  match sp with
  | .peer k =>
    if k < 4096 then ((peerEntry s p (k - p * 256)).map (·.1)) != some inc
    else match setPrimary s p (k - 4096 - p * 256) with
      | some d => ((peerEntry s p d).map (·.1)) != some inc
      | none => false
  | _ => false

/-- The incarnation that a packet carries. -/
def pktInc (s : State) (p : Pkt) : Nat :=
  if p.isWrite then ((s.flight.find? (·.id == p.id)).map (·.peerInc)).getD 0
  else match p.engine with
    | some (id, k) => (((wgAt s p.wg).commands.find? (·.id == id)).bind fun c => (c.ops.find? (·.k == k)).map (·.peerInc)).getD 0
    | none => (((groupAt s p.g).reqs.find? (·.id == p.id)).map (·.peerInc)).getD 0

/-- A peer answers a packet of another incarnation as lost (R244). -/
def servedLost (s : State) (p : Pkt) : State :=
  let peer := match p.space with
    | .peer k => if k < 4096 then k - p.part * 256 else (setPrimary s p.part (k - 4096 - p.part * 256)).getD 0
    | _ => 0
  if p.isWrite then
    match s.flight.find? (·.id == p.id) with
    | some w => (s.flight.filter fun x => !x.applied && (sameAck w x || x.id == w.id || x.into == some w.id)).foldl (loseWrite peer) s
    | none => s
  else match p.engine with
    | some (id, k) =>
      let va := (((wgAt s p.wg).commands.find? (·.id == id)).bind fun c => (c.ops.find? (·.k == k)).map (·.va)).getD 0
      failCommand s p.wg id 13 none va
    | none => match (groupAt s p.g).reqs.find? (·.id == p.id) with
      | none => s
      | some r => modGroup s p.g fun gr =>
        { gr with reqs := gr.reqs.map fun x => if sameSector r x then lostReq x else x
                  chases := gr.chases.filter (·.id != r.id) }

/-- A packet is served at a peer: a write is performed there, a load takes its value, a message is gone. -/
def servePeer (s : State) (p : Pkt) : State :=
  if p.msg then modPart s p.part fun pt => { pt with msgOut := pt.msgOut.filter (·.id != p.id) }
  else if staleInc s p.part p.space (pktInc s p) then servedLost s p
  else if p.isWrite then
    match s.flight.find? (·.id == p.id) with
    | some w => (performAll (s.flight.filter fun x => (!x.applied && sameAck w x) || x.id == w.id) s).getD s
    | none => s
  else if p.engine.isSome then setStage s p .served
  else match (groupAt s p.g).reqs.find? (·.id == p.id) with
    | none => s
    | some r => match captureReqs' p.g (sectorRequest s p.g r) s with
      | some s => setStage s p .served
      | none => s
where
  /-- Performs the writes of a sector request, up to one of an SST that an earlier quad's goes before (R87). -/
  performAll : List Write → State → Option State
    | [], s => some s
    | w :: r, s =>
      if (s.flight.find? (·.id == w.id)).all (·.applied) then performAll r s
      else if behindOwn s w then some s
      else (performUnit s w).bind (performAll r)
  /-- The lanes of a sector request take their values. -/
  captureReqs' (g : Nat) : List Req → State → Option State
    | [], s => some s
    | r :: rest, s => (captureLane s g r.lane r.id).bind (captureReqs' g rest)

/-- The wavelength that beat k of a flit travels on: the (k mod n)-th of the n of an active set (R344). -/
def beatWave (active : BitVec 8) (k : Nat) : Nat := let ws := bitsOf active; nth 0 ws (k % ws.length)

/-- The time of a flit in ns on an active set (R344). -/
def flitNs (active : BitVec 8) : Nat := let n := (bitsOf active).length; (8 + n - 1) / n

/-- Whether a packet waits for optical link n: its partition is granted it. -/
def waitsFor (s : State) (n : Nat) (p : Pkt) : Bool := p.stage == .link && (cfgOf s p.part).optical.getLsbD n

/-- The queues of links held a packet until now (R347): those that have some packet of a list. -/
def keptBusy (s : State) (ps : List Pkt) : State :=
  if ps.any (·.stage == .link) then
    { s with links := s.links.mapIdx fun n l => if ps.any (waitsFor s n) then { l with since := s.now } else l }
  else s

/-- An optical link carries a packet now: the beats of its flits travel on the active set (R344). -/
def touchLink (s : State) (n : Nat) : State :=
  if n < 72 then s
  else { s with links := upd s.links (n - 72) fun l => { l with since := s.now, beats := (List.range 8).map (beatWave l.active) } }

/-- The controller of a stack admits what its slices have missed, and the writes that they bring to it (R301): requests of partitions
that have credit left go first, each spends 32 bytes of it where the stack's own HBM is reached, and 64 fit. -/
def admitted (s0 : State) (st : Nat) : State :=
  let s := renewed s0
  let mine := (packets s).filter fun p => p.slice / 4 == st && !p.isWrite
  let room := 64 - (mine.filter (·.stage == .controller)).length
  let wait := inOrder s (mine.filter (·.stage == .admission))
  (List.range room).foldl (fun (x : State × List Pkt) _ =>
    match (x.2.filter fun p => creditOf x.1 st p.part != 0) ++ x.2 with
    | [] => x
    | p :: _ =>
      let s := setStage x.1 p .controller
      (if p.space == .hbm then spendCredit s st p.part else s, x.2.filter (· != p))) (s, wait) |>.1

/-- ARBITRATION (R268): a point serves its next packet; merge asks it to merge two waiting atomics instead (R283). -/
def execArbitration (pt : ArbPoint) (merge : Bool) (s : State) : Out :=
  if merge then .next (mergeAt s pt)
  else
    let all := packets s
    match pt with
    | .cluster c =>
      let here := all.filter fun p => p.stage == .cluster && physCluster s p.part (p.core / 8) == c && inTurn s all p
      match inOrder s here with
      | [] => .next s
      | p :: _ => .next (setStage s p (.announced (s.now / 8)))
    | .slice n =>
      let here := all.filter fun p => !p.isWrite && p.slice == n && (match p.stage with | .slice _ => true | _ => false)
      match inOrder s here with
      | [] => .next s
      | p :: _ => .next (setStage s p (if Config.sliceHit s.tick then .served else .admission))
    | .controller st =>
      if (nth {} s.hbmStacks st).tripped then .next s
      else
        let s := admitted s st
        match inOrder s ((packets s).filter fun p => p.stage == .controller && p.slice / 4 == st) with
        | [] => .next s
        | p :: _ => .next (setStage s p .served)
    | .chase st =>
      let here := all.filter fun p => p.stage == .chase && p.slice / 4 == st
      match inOrder s here with
      | [] => .next s
      | p :: _ => .next (setStage s p .served)
    | .blurus n =>
      let here := all.filter fun p => p.stage == .link && (portGranted s p.part n || stayingHere s p) && peerTurn s all p
      match inOrder s here with
      | [] => .next s
      | p :: _ =>
        let s := keptBusy s [p]
        .next (if stayingHere s p then servePeer s p else touchLink (servePeer s p) n)

/-! ## Transit windows (R266, R275) -/

/-- Greedy choice of packets, in order, for at most n slots. DESIGN CHOICE (log 62): a store of two flits that finds one slot left
waits whole, and a later packet of one flit may take that slot. -/
def takeSlots : Nat → List Pkt → List Pkt
  | _, [] => []
  | n, p :: r => if p.flits ≤ n then p :: takeSlots (n - p.flits) r else takeSlots n r

def flitsOf (l : List Pkt) : Nat := l.foldl (fun n p => n + p.flits) 0

/-- The open circuits towards a slice, in the order their CIRC instructions issued: workgroup, number. -/
def circuitsTo (s : State) (slice : Nat) : List (Nat × Nat × Circuit) :=
  let all := (List.range s.wgs.length).flatMap fun w =>
    ((List.range 4).zip (wgAt s w).circuits).filterMap fun nc =>
      if nc.2.isOpen && nc.2.slice == slice then some (w, nc.1, nc.2) else none
  sortBy (fun a b => a.2.2.order ≤ b.2.2.order) all

/-- Slots given to circuits first: the packets each carries. -/
def circuitSlots : List (Nat × Nat × Circuit) → Nat → List Pkt → List (Nat × Nat × List Pkt)
  | [], _, _ => []
  | (w, n, c) :: rest, free, ps =>
    let mine := takeSlots (min (min c.want c.left) free) (ps.filter (·.wg == w))
    (w, n, mine) :: circuitSlots rest (free - flitsOf mine) (ps.filter fun p => !(mine.contains p))

/-- The slot order of one home channel: packets carried by circuits, and the others that get a slot. -/
def channelSlots (s : State) (slice : Nat) (ps : List Pkt) : List (Nat × Nat × List Pkt) × List Pkt :=
  let byCircuit := circuitSlots (circuitsTo s slice) 48 ps
  let carried := byCircuit.flatMap (·.2.2)
  (byCircuit, takeSlots (96 - flitsOf carried) (ps.filter fun p => !(carried.contains p)))

/-- Of the packets that got a slot, those that may use it: every earlier write of a write's group holds one (R266). The writes of a
group stand in the list of all packets in the order in which they left its queue. -/
def acceptWrites (all : List Pkt) (got : List Pkt) : List Pkt :=
  (all.filter got.contains).foldl (fun acc p =>
    if (all.takeWhile (· != p)).any fun q => sameQueue p q && !(acc.contains q) &&
        (match q.stage with | .cluster | .announced _ => true | _ => false)
    then acc else acc ++ [p]) []

/-- A circuit after a window in which it carried some flits. -/
def circuitWindow (c : Circuit) (flits : Nat) : Circuit :=
  let left := c.left - flits
  let idle := if flits == 0 then c.idle + 1 else 0
  { c with left := left, idle := idle, isOpen := c.isOpen && left != 0 && idle < 64 }

/-- A store of a peer is tagged by the window in which it takes its slot here (R307). -/
def tagRemote (s : State) (p : Pkt) : State :=
  if p.isWrite && s.groups.length < p.g then
    { s with flight := s.flight.map fun w => if w.id == p.id then { w with gen := (partAt s w.part).gencur } else w }
  else s

/-- A store or an atomic without a return of a peer's lane arrives, with the time of its issue and the slack that it has carried, and
is announced to its home channel (R281). It carries a group number of its own, so that the lane's requests keep their order. It is
admitted only where its partition is granted a port or link, and not performed in a frame that is not the partition's (R298). -/
def remoteWrite (s : State) (p src : Nat) (loc : Loc) (op : MemOp) (size : Nat) (slack : Slack) : State :=
  if !(hasSlice loc) || p ≥ 12 || !(anyPort s p) then s
  else if !(ownsLoc s p loc) then unitForeign p loc.addr (loc.addr / 65536) s
  else
    let (id, s) := fresh s
    { s with flight := s.flight ++ [{ id := id, iid := id, part := p, core := 1024 + src % 8, group := 2 ^ 32 + src, wg := 2 ^ 32
                                      loc := loc, size := size, op := op, stage := .announced (s.now / 8), gen := 2 ^ 32
                                      slack := slack }] }

/-- TRANSIT_WINDOW: time reaches the next window; every home channel gives out its slots to what was announced before. -/
def execTransitWindow (s : State) : Out :=
  let k := s.now / 8 + 1
  let s := advance s (8 * k)
  let all := packets s
  let s := keptBusy s all
  let ann := all.filter fun p => match p.stage with | .announced w => w < k | _ => false
  let slots := (List.range 48).map fun c => channelSlots s c (inOrder s (ann.filter (·.slice == c)))
  let got := slots.flatMap fun x => x.1.flatMap (·.2.2) ++ x.2
  let sent := acceptWrites all got
  let s := sent.foldl (fun s p =>
    let chaseReq := !p.isWrite && p.engine.isNone && (((groupAt s p.g).reqs.find? (·.id == p.id)).map fun r => r.what == .walk).getD false
    tagRemote (setStage s p (if chaseReq then .chase else .slice k)) p) s
  let after (ps : List Pkt) (y : Circuit) : Circuit := circuitWindow y (flitsOf (ps.filter (sent.contains ·)))
  let used (s : State) (c : Nat × Nat × List Pkt) : State :=
    modWg s c.1 fun w => { w with circuits := upd w.circuits c.2.1 (after c.2.2) }
  .next (slots.foldl (fun s x => x.1.foldl used s) s)

/-! ## Slack classes and circuits (R273 to R277) -/

/-- SLK (R273). -/
def slkFx (v : Env) : Eff :=
  let x := (sGet v.gr v.q0 v.a).toNat
  if 8192 ≤ x then v.allFault 5 v.pc
  else { s := modWg v.s v.gr.wg fun w =>
    { w with slack := upd w.slack v.d fun _ => { s := x % 4096, report := x / 4096 == 1 } } }
def execSlk (d a b : Byte) (s : State) : Out := issue1 0xC1 d a b slkFx s

/-- Changes a circuit of a workgroup. -/
def modCircuit (s : State) (w n : Nat) (f : Circuit → Circuit) : State :=
  modWg s w fun x => { x with circuits := upd x.circuits n f }

/-- CIRC (R274): an open circuit of the same number ends first. -/
def circFx (v : Env) : Eff :=
  let dst := (sGet v.gr v.q0 v.a).toNat
  let t := (sGet v.gr v.q0 v.b).toNat
  let count := t % 65536
  let want := t / 65536 % 256
  if 48 ≤ dst || count == 0 || want == 0 || 48 < want || 2 ^ 24 ≤ t then v.allFault 5 v.pc
  else
    let (n, s) := fresh v.s
    { s := modCircuit s v.gr.wg v.d fun _ => { isOpen := true, slice := dst, left := count, want := want, order := n } }
def execCirc (d a b : Byte) (s : State) : Out := issue1 0xC2 d a b circFx s

/-- CREL (R277). -/
def crelFx (v : Env) : Eff := { s := modCircuit v.s v.gr.wg v.d fun c => { c with isOpen := false } }
def execCrel (d a b : Byte) (s : State) : Out := issue1 0xC3 d a b crelFx s

/-- CIRCUIT_IDLE_END (R276): after 64 windows without a flit. -/
def execCircuitIdleEnd (wg n : Nat) (s : State) : Out :=
  .next (modCircuit s wg n fun c => if 64 ≤ c.idle then { c with isOpen := false } else c)

end Sys2Proof.Machine
end

