-- ==== Sys2Proof/Machine/Peers.lean ====
section
/-!
DEFINITION. Active messages (R278 to R280), lost peers (R244, R245) and replicas (R167, R282).
-/

namespace Sys2Proof.Machine

/-! ## AMSG (R278) -/

/-- Messages on their way from a partition to a node. -/
def msgsTo (pt : Partition) (node : Nat) : Nat := (pt.msgOut.filter (·.node == node)).length

/-- Whether a sender holds n credits for a node: for its own device, free places of the queue (R279). -/
def hasCredit (s : State) (p node n : Nat) : Bool :=
  let pt := partAt s p
  if node == 255 then decide (pt.msgQ.length + msgsTo pt 255 + n ≤ 1024) else Config.peerCredit s.tick node

/-- The message that a lane sends. -/
def laneMessage (v : Env) (l : Nat) : Msg :=
  { handler := v.d, payload := (List.range 8).map fun i => vGet v.gr l (v.a + i), arg := vGet v.gr l (v.b + 1)
    source := 255, wgid := (wgOf v.s v.g).wgid, tid := BitVec.ofNat 32 (tidOf v.gr l) }

/-- AMSG (R278): no lane sends until all can. It waits for what precedes it, as a release at fabric scope. -/
def amsgFx (v : Env) : Eff :=
  let p := v.gr.part
  let node (l : Nat) : Nat := (vGet v.gr l v.b).toNat
  let reach (n : Nat) : Bool := n == 255 || (n < 255 && (match peerEntry v.s p n with | some (_, r) => r | none => false))
  let bad := v.realLanes.filter fun l => !(reach (node l))
  let good := v.realLanes.filter fun l => reach (node l)
  let nodes := distinct (good.map node)
  -- the peer table may lie in a foreign frame (R298)
  let looked (s : State) : State := (distinct (v.realLanes.map node)).foldl (fun s n => noteTables p { kind := 3, peer := n } s) s
  if good.isEmpty then { s := looked v.s, faults := bad.map fun l => (l, 13, zext (vGet v.gr l v.b)) }
  else match captureAll v.s v.g with
    | none => { s := v.s, flow := .yield }
    | some s =>
      if !(groupAcked s v.g) || !(clusterPerformed s v.g)
          || !(nodes.all fun n => hasCredit s p n (good.filter fun l => node l == n).length) then { s := s, flow := .yield }
      else
        { s := good.foldl (send v node) (looked s), faults := bad.map fun l => (l, 13, zext (vGet v.gr l v.b)) }
where
  /-- A lane's message sets out. -/
  send (v : Env) (node : Nat → Nat) (s : State) (l : Nat) : State :=
    let (id, s) := fresh s
    modPart s v.gr.part fun pt => { pt with msgOut := pt.msgOut ++
      [{ id := id, node := node l, msg := laneMessage v l, wg := v.gr.wg
         slack := slackOf s v.g (Table.slkOf (modeOf v.gr (l / 4))) }] }
def execAmsg (d a b : Byte) (s : State) : Out := issue1 0xC0 d a b amsgFx s

/-- The place in the list of messages on their way of one to this device that is m, behind no earlier one of its lane
(R280). -/
def arriving (out : List Sent) (m : Msg) : Option Nat :=
  (List.range out.length).find? fun i =>
    match out[i]? with
    | none => false
    | some x => x.node == 255 && x.msg == m &&
        !((out.take i).any fun y => y.node == 255 && y.wg == x.wg && y.msg.tid == x.msg.tid)

/-- MESSAGE_ARRIVAL (R279): a message of this device, or of a peer on a port or link granted to the partition (R298), enters the
queue. -/
def execMessageArrival (p : Nat) (m : Msg) (s : State) : Out :=
  let pt := partAt s p
  if pt.frozen || pt.cfg.isNone then .next s
  else if m.source == 255 then
    match arriving pt.msgOut m with
    | none => .next s
    | some i => .next (modPart s p fun pt => { pt with msgOut := pt.msgOut.eraseIdx i, msgQ := pt.msgQ ++ [m] })
  else if m.source < 255 && anyPort s p && pt.msgQ.length + msgsTo pt 255 < 1024 then
    .next (modPart s p fun pt => { pt with msgQ := pt.msgQ ++ [m] })
  else .next s

/-! ## Lost peers (R244, R245) -/

/-- The chase walks of a group whose next record lies at a peer, or which are on their way there. -/
def chasesAt (s : State) (g : Nat) (there : Space → Bool) : List Nat :=
  let gr := groupAt s g
  (gr.chases.filter fun c =>
    (c.links.head?).any there ||
    match engineLoc s (.lane g c.lane c.id) gr.part gr.core c.user c.rec_ .read with
    | .ok loc => there loc.space
    | .error _ => false).map (·.id)

/-- A write that a lost peer has not performed. -/
def writeLost (p : Nat) (there : Space → Bool) (w : Write) : Bool := w.part == p && there w.loc.space && !w.applied

/-- The requests of a group to a lost peer end (R245): loads and JT entry loads aimed there, and walks forwarded there; its
writes there leave its store queue. -/
def loseReqs (p : Nat) (there : Space → Bool) (s : State) (g : Nat) : State :=
  let walks := chasesAt s g there
  let lost (r : Req) : Bool :=
    r.data.isNone && (walks.contains r.id || (match loadSpan r with | some (l, _) => there l.space | none => false))
  modGroup s g fun gr =>
    { gr with reqs := gr.reqs.map fun r => if lost r then lostReq r else r
              chases := gr.chases.filter fun c => !(walks.contains c.id)
              storeQ := gr.storeQ.filter fun w => !(writeLost p there w) }

/-- The engine commands of a partition that have a sector read at a lost peer stop (R190, R245). -/
def loseSectors (p : Nat) (there : Space → Bool) (s : State) (wi : Nat) : State :=
  if (wgAt s wi).part != p then s
  else (wgAt s wi).commands.foldl (fun s c =>
    match c.ops.find? fun o => there o.loc.space && o.stage != .served with
    | some o => failCommand s wi c.id 13 none o.va
    | none => s) s

/-- A load that was to be served by a replica of a set goes to the primary (R282). -/
def toPrimary (p set : Nat) (l : Loc) : Loc :=
  if l.space == .replica (p * 256 + set) then { l with space := .peer (primaryOf p set) } else l

/-- The memory of an outstanding request that a lost replica no longer serves: it waits for the primary. -/
def Req.toPrimary (p set : Nat) (r : Req) : Req :=
  match r.what, r.data with
  | .mem l n sx, none =>
    if l.space == .replica (p * 256 + set) then { r with what := .mem (Machine.toPrimary p set l) n sx, stage := .link } else r
  | .entry l, none =>
    if l.space == .replica (p * 256 + set) && !r.back then { r with what := .entry (Machine.toPrimary p set l), stage := .link } else r
  | _, _ => r

/-- A sector read of a copy engine, likewise. -/
def SectorOp.toPrimary (p set : Nat) (o : SectorOp) : SectorOp :=
  if o.loc.space == .replica (p * 256 + set) then { o with loc := Machine.toPrimary p set o.loc, stage := .link } else o

/-- A replica that has lost its primary serves no more loads; those that were to be served there go to the primary (R282). -/
def leaveReplica (p : Nat) (s : State) (set : Nat) : State :=
  let s := { s with
    groups := s.groups.map fun gr => if gr.part == p then { gr with reqs := gr.reqs.map (Req.toPrimary p set) } else gr
    wgs := s.wgs.map fun w => if w.part == p then
      { w with commands := w.commands.map fun c => { c with ops := c.ops.map (SectorOp.toPrimary p set) } } else w }
  modPart s p fun pt => { pt with replicasLost := setAdd set pt.replicasLost }

/-- PEER_LOSS (R245): the peer's table entry becomes unreachable, with a new incarnation where the peer was reset or powered
up (R244); its cached translations, and those of the sets of which it is the primary, are dropped, its outstanding requests end. -/
def execPeerLoss (p peer : Nat) (s : State) : Out :=
  if 256 ≤ peer || (partAt s p).cfg.isNone then .next s
  else
    let inc := ((peerEntry s p peer).map (·.1)).getD 0
    -- a replica of a set loses contact with its primary (R282)
    let sets := (List.range 256).filter fun j => setPrimary s p j == some peer
    let s := sets.foldl (leaveReplica p) s
    let s := noteForeign p ((cfgOf s p).peers + BitVec.ofNat 64 (16 * peer)) s
    let there (sp : Space) : Bool := match sp with
      | .peer k => k == p * 256 + peer || sets.any fun j => k == primaryOf p j
      | _ => false
    let lost := writeLost p there
    let ws := (s.groups.filter (·.part == p)).flatMap (fun gr => gr.storeQ.filter lost) ++ s.flight.filter lost
    let mine := positions (fun (gr : Group) => gr.part == p) s.groups
    let s := mine.foldl (loseReqs p there) s
    let s := (List.range s.wgs.length).foldl (loseSectors p there) s
    let s := (sortBy (fun a b => a.id ≤ b.id) ws).foldl (loseWrite peer) s
    let s := dropTranslations s p fun t => t.leaf.kind == 3 && (if t.leaf.repl then sets.contains t.leaf.peer else t.leaf.peer == peer)
    let s := modPart s p fun pt => { pt with msgOut := pt.msgOut.filter (·.node != peer) }
    let e := (cfgOf s p).peers + BitVec.ofNat 64 (16 * peer)
    let inc' := if Config.lossIsReset s.tick then (inc + 1) % 65536 else inc
    let s := unitWrite s p (e + 8) (leBytes 2 inc' ++ [0])
    let s := ringEntry s p 15 0 0 0xFFFFFFFF 0 peer
    .next (mine.foldl wake s)

/-! ## Replicas (R167, R282) -/

/-- Counts one store forwarded to this device's replica of a set. -/
def countForward (s : State) (p set : Nat) : State :=
  modPart s p fun pt => { pt with replDone := cellPut 0 set (cellGet 0 set pt.replDone + 1) pt.replDone }

/-- REPLICA_FORWARD (R167, R282): the primary's next store of a set reaches the replica; with none of this device's pending,
a store of another device, which the primary has applied too. -/
def execReplicaForward (p set addr : Nat) (bytes : List Byte) (s : State) : Out :=
  let pt := partAt s p
  let mine := p * 256 + set
  let replica : Loc := ⟨.replica mine, addr⟩
  match pt.replFwd.find? (·.1 == set) with
  | some (_, a, bs) =>
    let s := pokeBytes s { replica with addr := a } bs
    let s := modPart s p fun pt => { pt with replFwd := pt.replFwd.eraseP (·.1 == set) }
    .next (countForward s p set)
  | none =>
    if 256 ≤ set || 32 < bytes.length then .next s
    else .next (countForward (pokeBytes (pokeBytes s ⟨.peer (primaryOf p set), addr⟩ bytes) replica bytes) p set)

/-- System software has a replica hold what its primary does: it serves loads again (R282). -/
def resyncReplica (s : State) (p set : Nat) : State :=
  if 256 ≤ set then s
  else
    let mine := p * 256 + set
    let copy := (s.peer.filter fun c => c.1 / 2 ^ 52 == primaryOf p set).map fun c => (farKey mine (c.1 % 2 ^ 52), c.2)
    let kept := s.replica.filter fun c => c.1 / 2 ^ 52 != mine
    let all := copy.foldl (fun m c => cellPut 0 c.1 c.2 m) kept
    modPart { s with replica := all } p fun pt =>
      { pt with
        replicasLost := setDel set pt.replicasLost
        replDone := cellPut 0 set (cellGet 0 set pt.replDone + (pt.replFwd.filter (·.1 == set)).length) pt.replDone
        replFwd := pt.replFwd.filter (·.1 != set) }

/-- REPLICA_LOSS (R282). -/
def execReplicaLoss (p set : Nat) (s : State) : Out := .next (if 256 ≤ set then s else leaveReplica p s set)

end Sys2Proof.Machine
end

