-- ==== Sys2Proof/Machine/Partitions.lean ====
section
/-!
DEFINITION. Partitions (R293 to R304): reload, reset, shrink; the registers of the control page (R6, R300, R312, R343);
bandwidth shares (R301).
-/

namespace Sys2Proof.Machine

/-! ## The configuration record (R294, Table 19.1) -/

/-- Whether physical cluster c may serve partition p: it has 8 good cores and no other partition maps it (R293). -/
def clusterGrantable (s : State) (p c : Nat) : Bool :=
  c < 12 && (clusterAt s c).goodCores.length == 8 && !((clusterAt s c).goodCores.contains 255) &&
    (List.range 12).all fun q => q == p || !((cfgOf s q).clmap.contains c) || (partAt s q).cfg.isNone

/-- Whether the physical clusters of a map are named once each. -/
def mapOnce (m : List Nat) : Bool := let l := m.filter (· != 255); (distinct l).length == l.length

/-- Whether a number is a power of two from 64 to 65,536. -/
def ringSize (n : Nat) : Bool := (List.range 11).any fun i => n == 2 ^ (i + 6)

/-- SHARE of the other partitions. -/
def otherShares (s : State) (p : Nat) : Nat :=
  ((List.range 12).filter (· != p)).foldl (fun n q => n + (cfgOf s q).share) 0

/-- The current in A that the Observatory lets a partition draw on rail n (R338). -/
def ampsBound (s : State) (p n : Nat) : Nat := nth 4095 (nth {} s.rails n).boundAmps p

/-- Whether a record's own bitmap owns a frame. -/
def cfgOwns (s : State) (c : PartCfg) (kind frame : Nat) : Bool :=
  frame < kindFrames kind && (cellGet 0 (ownByte c kind frame) s.hbm).getLsbD (frame % 8)

/-- The frames of n bytes at a physical address: the first, and how many. -/
def frameSpan (base n : Nat) : Nat × Nat := (base / 65536, (base % 65536 + n + 65535) / 65536)

/-- The HBM frames that hold the bytes from a virtual address up to another, page by page; none where a page of them has no
translation, or one of another kind, or one that user mode reaches. -/
def mappedFrames (s : State) (p hi : Nat) : Nat → Nat → Option (List (Nat × Nat))
  | 0, _ => none
  | fuel + 1, va =>
    if hi ≤ va then some []
    else match walkTable s .unit p (BitVec.ofNat 64 va) with
      | .leaf l =>
        let size := if l.large then 2 ^ 28 else 2 ^ 16
        let next := min hi ((va / size + 1) * size)
        let first := (leafLoc p l (BitVec.ofNat 64 va)).addr
        if l.kind != 0 || l.user then none
        else (mappedFrames s p hi fuel next).map (frameSpan first (next - va) :: ·)
      | _ => none

/-- The tables that a record names by virtual address: where they begin, and their bytes. -/
def namedTables (c : PartCfg) : List (Nat × Nat) :=
  [(c.ctxBase, c.ctxSize), (c.mht.toNat, 6144), (c.peers.toNat, 4096), (c.repl.toNat, 4096)]

/-- The HBM frames of every table that the record in force names; none where one is not mapped as it must be. -/
def tableFrames (s : State) (p : Nat) : Option (List (Nat × Nat)) :=
  let c := cfgOf s p
  (namedTables c).foldl (fun o t => o.bind fun l => (mappedFrames s p (t.1 + t.2) (t.2 / 65536 + 3) t.1).map (l ++ ·))
    (some [(c.root, 1), frameSpan c.hbmq (kindFrames 0 / 8), frameSpan c.capq (kindFrames 1 / 8), frameSpan c.dumpBase c.dumpSize])

/-- The valid entries of the table in a frame. -/
def tableEntries (s : State) (frame : Nat) : List Nat :=
  s.hbm.filterMap fun x =>
    if x.1 / 65536 == frame && x.1 % 65536 < 32768 && x.1 % 8 == 0 && x.2.getLsbD 0 then some (leNat (homeBytes s ⟨.hbm, x.1⟩ 8))
    else none

/-- The HBM frames that the page tables at a root frame map for user mode. -/
def userFrames (s : State) (root : Nat) : List (Nat × Nat) :=
  let down (e : Nat) : Bool := !(pteLarge e) && pteKind e == 0
  let leaves := ((tableEntries s root).filter down).flatMap fun e1 => (tableEntries s (pteFrame e1)).flatMap fun e2 =>
    if pteLarge e2 then [leafOf e2 true]
    else if down e2 then ((tableEntries s (pteFrame e2)).filter fun e => !(pteLarge e)).map (leafOf · false) else []
  leaves.filterMap fun w => match w with
    | .leaf l => if l.user && l.kind == 0 then some (l.frame, if l.large then 4096 else 1) else none
    | _ => none

/-- Every table that a record names lies in kind 0 memory within its quota, and no user-mode page maps it (R294). -/
def tablesOk (s : State) (p : Nat) (c : PartCfg) : Bool :=
  match tableFrames (modPart s p fun pt => { pt with cfg := some c }) p with
  | none => false
  | some spans =>
    (spans.all fun x => (List.range x.2).all fun i => cfgOwns s c 0 (x.1 + i))
      && !((userFrames s c.root).any fun u => spans.any fun x => x.1 < u.1 + u.2 && u.1 < x.1 + x.2)

/-- The bytes of a partition's context reserve that its workgroups hold for spill areas and trap frames (R229, R249). -/
def reserveHeld (s : State) (p : Nat) : Nat :=
  (s.wgs.filter fun w => w.part == p && !w.retired).foldl (fun n w =>
    let r := (gridAt s w.grid).recd
    n + frameRoom r + spillRoom r) 0

/-- The limits of a configuration record. -/
def cfgOk (s : State) (p : Nat) (c : PartCfg) : Bool :=
  decide (1 ≤ c.ceil) && decide (c.ceil ≤ 12) && c.clmap.length == 12 && c.rsvd == 0
    && (List.range 12).all (fun k =>
      let x := nth 255 c.clmap k
      x == 255 || (k < c.ceil && clusterGrantable s p x))
    && mapOnce c.clmap
    && decide (c.share ≤ 900) && decide (c.share + otherShares s p ≤ 900)
    && decide (c.ceil * 2 ^ 25 + reserveHeld s p ≤ c.ctxSize) && ringSize c.eringCount && tablesOk s p c
    && c.railAmps.length == 4
    && (List.range 4).all fun n => nth 0 c.railAmps n < 4096 && nth 0 c.railAmps n ≤ ampsBound s p n

/-! ## Generation reserves (R312) -/

/-- The frames of a reserve list. DESIGN CHOICE (log 61): its physical address is one of HBM, whose own frame need not be owned, and a
frame listed twice counts once (R312). -/
def listFrames (s : State) (base count : Nat) : List Nat :=
  distinct ((List.range count).map fun i => leNat (homeBytes s ⟨.hbm, base + 4 * i⟩ 4))

/-- Whether every frame of a list is owned, those of the list before it and those that have come back included. -/
def listOwned (s : State) (p : Nat) (c : PartCfg) (kind : Nat) (old new : List Nat) : Bool :=
  new.all fun f => f < kindFrames kind && (old.contains f || (partAt s p).returned.contains (kind, f) || cfgOwns s c kind f)

/-- Frames of a kind that are in use as backings. -/
def framesInUse (pt : Partition) (kind : Nat) : List Nat :=
  (pt.backings.filter fun b => (if b.kind == 1 || b.moved then 1 else 0) == kind).map (·.frame)
    ++ (pt.live.filter (·.kind == kind)).map (·.frame)

/-- Loads the list of one kind: new frames join the reserve, free ones that are listed no more return to ownership, those
in use when they are freed. -/
def loadList (p kind : Nat) (new : List Nat) (s : State) : State :=
  let pt := partAt s p
  let old := if kind == 0 then pt.hbmList else pt.capList
  let free := freeFrames pt kind
  let used := framesInUse pt kind
  let gone := old.filter fun f => !(new.contains f)
  let added := new.filter fun f => !(old.contains f) && !(used.contains f) && !(free.contains f)
  let s := setOwned p true ((gone.filter fun f => !(used.contains f)).map fun f => (kind, f)) s
  let s := setOwned p false (new.map fun f => (kind, f)) s
  let free' := (free.filter fun f => !(gone.contains f)) ++ added
  modPart s p fun pt =>
    let pt := if kind == 0 then { pt with hbmList := new, hbmFree := free' } else { pt with capList := new, capFree := free' }
    { pt with
      leftList := (pt.leftList.filter fun x => !(x.1 == kind && new.contains x.2))
        ++ (gone.filter used.contains).map fun f => (kind, f) }

/-! ## Reload (R297, R303, R304) -/

/-- The logical clusters that a record takes away or remaps. -/
def leavingClusters (s : State) (p : Nat) (c : PartCfg) : List Nat :=
  (List.range 12).filter fun k => decide (physCluster s p k < 12) && nth 255 c.clmap k != physCluster s p k

/-- Whether a logical cluster has come to rest: no run, no store queue, no started engine work. -/
def clusterQuiet (s : State) (p k : Nat) : Bool :=
  ((List.range 8).all fun i => coreQuiet s p (8 * k + i) && (coreAt s p (8 * k + i)).mmas.isEmpty)
    && (wgsOnCluster s p k).all fun w => (wgAt s w).commands.all fun c => !c.started

/-- The granules that a logical cluster's context holds. -/
def heldGranules (s : State) (p k : Nat) : List Granule :=
  let cores := (List.range 8).map (8 * k + ·)
  let pools := ((s.gangs.filter fun gg => gg.part == p && gg.cluster == k && !gg.retired).flatMap fun gg =>
    (List.range (gg.size * gg.p / 1024)).map fun i => Granule.pool k (gg.poolBase / 1024 + i))
  cores.flatMap (fun c => ((List.range 256).filter fun j => !(sliceQuads s p c j).isEmpty).map (Granule.slice c))
    ++ pools
    ++ cores.flatMap (fun c => (List.range (accGranules s p c).length).map (Granule.acc c))
    ++ cores.flatMap (fun c => (List.range ((wgsOnCore s p c).filter fun w =>
        (gridAt s (wgAt s w).grid).recd.accrows != 0).length).map (Granule.scale c))
    ++ cores.flatMap (fun c => (groupsOnCore s p c).map fun g => Granule.slot c (groupAt s g).slot)
    ++ [Granule.control k]

/-- Saves what a leaving cluster still holds and takes its physical cluster off the rails. -/
def vacate (p k : Nat) (s : State) : State :=
  let s := if (wgsOnCluster s p k).isEmpty then s else
    ((heldGranules s p k).filter fun g => !((partAt s p).saved.contains g)).foldl (fun (s : State) g => saveGranule s p g) s
  modCluster s (physCluster s p k) fun x => { x with connected := false, movable := false }

/-- The state that an event leads to, or the state itself where it stops. -/
def afterEvent (s : State) (o : Out) : State := match o with | .next s' => s' | _ => s

/-- Grids that lose a logical cluster for good (R304). -/
def shrinkCluster (p k : Nat) (s : State) : State :=
  let grids := distinct ((wgsOnCluster s p k).map fun w => (wgAt s w).grid)
  each grids (fun g s =>
    let gd := gridAt s g
    if gd.handlerGroup then endGrid s g 3
    else
      let s := ringEntry s p 14 0 gd.recd.crec.toNat 0xFFFFFFFF 0 k
      let s := modPart s p fun pt => { pt with launchQ := pt.launchQ.filter fun x => x.grid != some g }
      endGrid s g 3) s

/-- A reload that is refused (R294). -/
def refuseReload (s : State) (p : Nat) : State := modPart s p fun pt => { pt with invalcfg := true, reload := false }

/-- Whether the lists that the generation registers name may be loaded (R312). DESIGN CHOICE (log 61): a list that is not aligned, or
longer than its range, refuses the reload as an unowned frame does. -/
def listsOk (s : State) (p : Nat) (cfg : PartCfg) (hbm cap : List Nat) : Bool :=
  let pt := partAt s p
  pt.grhlist.toNat % 4 == 0 && pt.grclist.toNat % 4 == 0 && decide (pt.grhcnt.toNat ≤ 1048576) && decide (pt.grccnt.toNat ≤ 2097152)
    && listOwned s p cfg 0 pt.hbmList hbm && listOwned s p cfg 1 pt.capList cap

/-- Steps 1 to 3 of R297: the leaving clusters are saved and vacated, the record and the lists are installed, translations are
dropped as by TLBI of kind 1, and what they had translated is awaited. -/
def installCfg (p : Nat) (cfg : PartCfg) (hbm cap : List Nat) (s : State) : State :=
  let coming := (List.range 12).filter fun k => nth 255 cfg.clmap k != 255 && nth 255 cfg.clmap k != physCluster s p k
  let lost := (List.range 12).filter fun k => cfg.ceil ≤ k && k < (cfgOf s p).ceil
  let s := renewed (flushOwned (each (leavingClusters s p cfg) (vacate p) s) p)
  let s := modPart s p fun pt => { pt with cfg := some cfg }
  let (n, s) := fresh (dropTranslations s p fun _ => true)
  let s := each lost (shrinkCluster p) (loadList p 1 cap (loadList p 0 hbm s))
  modPart s p fun pt => { pt with reload := true, fenceAt := some n, coming := coming.filter pt.preempted.contains }

/-- Step 4 of R297, once nothing translated before is outstanding: the clusters that come are restored, and the reload is
done; a reset that waits for it begins (R302). -/
def finishReload (p n : Nat) (s : State) : State :=
  if translatedBefore s p n then s
  else
    let s := each (partAt s p).coming (fun k s => afterEvent s (execContextResume p k s)) s
    modPart s p fun pt =>
      { pt with
        reload := false, fenceAt := none, coming := []
        frozen := pt.resetReads, frozenAt := if pt.resetReads then s.now else pt.frozenAt }

/-- PARTITION_RELOAD (R297, R302 to R304, R312): the record is refused, waits for a reset or for clusters to come to rest,
or is applied; one that is being applied goes on. -/
def execPartitionReload (p : Nat) (cfg : PartCfg) (s : State) : Out :=
  let pt := partAt s p
  if 12 ≤ p || s.off || !s.isReady then .next s
  else if pt.frozen then .next (modPart s p fun pt => { pt with reload := true })
  else match pt.fenceAt with
    | some n => .next (finishReload p n s)
    | none =>
      let hbm := listFrames s pt.grhlist.toNat pt.grhcnt.toNat
      let cap := listFrames s pt.grclist.toNat pt.grccnt.toNat
      if !(cfgOk s p cfg) || !(listsOk s p cfg hbm cap) then .next (refuseReload s p)
      else
        let busy := (leavingClusters s p cfg).filter fun k => !(wgsOnCluster s p k).isEmpty
        let s := preempt s p busy
        if !(busy.all (clusterQuiet s p)) then .next (modPart s p fun pt => { pt with reload := true })
        else
          let s := installCfg p cfg hbm cap s
          .next (match (partAt s p).fenceAt with | some n => finishReload p n s | none => s)

/-! ## Reset (R302) -/

/-- The groups resident in a partition, by logical core and group slot. -/
def residentGroups (s : State) (p : Nat) : List Nat :=
  (List.range 96).flatMap fun core =>
    sortBy (fun a b => (groupAt s a).slot ≤ (groupAt s b).slot) (groupsOnCore s p core)

/-- Step 3: the incarnation rises, and packets and queued stores of the old one are gone (R285, R160), and with them what they waited
for (R313); what a device unit has written is no such packet. -/
def disown (s : State) (p : Nat) : State :=
  let s := { s with
    flight := s.flight.filter fun w => w.part != p || ofUnit w
    groups := s.groups.map fun gr => if gr.part == p then { gr with storeQ := [], reqs := [], chases := [] } else gr }
  let waits (x : Nat × Nat) : Bool := s.flight.any fun w => w.part == p && hasSlice w.loc && (frameKind w.loc, w.loc.addr / 65536) == x
  modPart s p fun pt => { pt with inc := (pt.inc + 1) % 256, msgOut := [], owing := pt.owing.filter waits }

/-- STATUS 5 for a grid that is running: at once, or, where it needs a confirmation entry and none is free, with the next that is
(R321). -/
def resetGrid (s : State) (k : Nat) : State :=
  let gd := gridAt s k
  if gd.ended || gd.handlerGroup then s
  else if gd.cores != 0 && 4096 ≤ (partAt s gd.part).confirm.length then
    modPart (modGrid s k fun gd => { gd with forced := 5 }) gd.part fun pt => { pt with finals := pt.finals ++ [k] }
  else
    let s := recordWrite s gd.part gd.recd.home 0 (finalRecord s gd 5)
    modPart s gd.part fun pt =>
      if gd.cores == 0 then pt
      else { pt with confirm := pt.confirm ++ [{ home := gd.recd.home, cores := gd.cores, fin := s.now }] }

/-- Step 4: everything but memory, page tables and generations is cleared; pending and running grids end with STATUS 5. -/
def clearPartition (s : State) (p : Nat) : State :=
  let s := (partAt s p).launchQ.foldl (fun (s : State) (x : LaunchEntry) =>
    if x.grid.isSome then s else writeUnrun s p x.recd 5) s
  let grids := positions (fun (gd : Grid) => gd.part == p && !gd.ended) s.grids
  let s := each grids (fun k s => resetGrid s k) (modPart s p fun pt => { pt with finals := [] })
  let s := each (positions (fun (w : Workgroup) => w.part == p && !w.retired) s.wgs) (fun w s =>
    releaseWg (modWg s w fun x => { x with commands := [], macq := none }) w) s
  let s := each (List.range 96) (fun c s => modCore s p c fun x => { x with mmas := [], checksumBad := false }) s
  let s := { s with
    tlb := s.tlb.filter fun t => t.part != p
    ctlb := s.ctlb.filter fun t => t.part != p
    grids := s.grids.mapIdx fun k gd =>
      if gd.part == p && !((partAt s p).finals.contains k) then { gd with ended := true } else gd }
  modPart s p fun pt =>
    { pt with launchQ := [], hostQ := [], msgQ := [], msgOut := [], preempted := [], saved := [] }

/-- PARTITION_RESET (R302): the partition freezes, unless a reload is being applied, which the reset awaits; once every run
has ended, the dump, the disowning, the clearing and the report follow. DESIGN CHOICE (log 61): a partition without a configuration
record has nothing to reset, and its RESET does nothing. DESIGN CHOICE (log 75): the entry of kind 12 has unit and address 0. -/
def execPartitionReset (p : Nat) (s : State) : Out :=
  let pt := partAt s p
  if pt.cfg.isNone then .next s
  else if !pt.frozen && pt.reload then .next (modPart s p fun pt => { pt with resetReads := true })
  else if !pt.frozen then .next (modPart s p fun pt => { pt with frozen := true, frozenAt := s.now, resetReads := true })
  else
    let gs := residentGroups s p
    if gs.any fun g => groupCounts (groupAt s g) &&
        (groupAt s g).splits.any fun sp => sp.valid && !sp.halted && sp.st == .issuing then .next s
    else
      let s := clearPartition (disown (dumpGroups s p gs) p) p
      let s := ringEntry s p 12 0 0 0xFFFFFFFF 0 (partAt s p).inc
      .next (modPart s p fun pt => { pt with frozen := false, resetReads := false })

/-! ## Registers of the control page (R6, Tables 19.3, 20.1, 22.5) -/

/-- INVALCFG_CLEAR (R300): W1C. -/
def execInvalcfgClear (p : Nat) (v : Word) (s : State) : Out :=
  .next (modPart s p fun pt => { pt with invalcfg := pt.invalcfg && !(v.getLsbD 2) })

/-- ERRSTAT_CLEAR (R300): W1C. -/
def execErrstatClear (p : Nat) (v : Word) (s : State) : Out :=
  .next (modPart s p fun pt => { pt with errstat := pt.errstat &&& ~~~(v.setWidth 16) })

/-- ERRDROP_READ (R300): RC. -/
def execErrdropRead (p : Nat) (s : State) : Out :=
  .next { modPart s p fun pt => { pt with errdrop := 0 } with lastRead := zext (partAt s p).errdrop }

/-- REGISTER_WRITE (R6, Tables 19.3 and 20.1): the RW registers of the control page; writes to the others are ignored. DESIGN
CHOICE (log 61): GRHLIST and GRCLIST, of 64 bits, are written whole at 0x208 and 0x218; a write at 0x20C or 0x21C, where their
high halves are read, is ignored. -/
def execRegisterWrite (p off : Nat) (v : DWord) (s : State) : Out :=
  let f (pt : Partition) : Partition :=
    match off with
    | 0x104 => { pt with errmask := v.setWidth 16 }
    | 0x10C => { pt with errcons := loWord v }
    | 0x200 => { pt with sluiceOn := v.getLsbD 1, dropPolicy := v.getLsbD 0 }
    | 0x208 => { pt with grhlist := v }
    | 0x210 => { pt with grhcnt := loWord v }
    | 0x218 => { pt with grclist := v }
    | 0x220 => { pt with grccnt := loWord v }
    | _ => pt
  .next (modPart s p f)

/-- A 32-bit register of the control page as software reads it, apart from what reading does (Tables 19.3 and 20.1). -/
def controlWord (s : State) (p off : Nat) : Word :=
  let pt := partAt s p
  let bit (b : Bool) (k : Nat) : Nat := if b then 2 ^ k else 0
  match off with
  | 0x000 => BitVec.ofNat 32 (bit pt.resetReads 0 + bit pt.reload 1 + bit pt.invalcfg 2)
  | 0x100 => pt.errstat.setWidth 32
  | 0x104 => pt.errmask.setWidth 32
  | 0x108 => pt.errprod
  | 0x10C => pt.errcons
  | 0x110 => pt.errdrop
  | 0x200 => BitVec.ofNat 32 (bit pt.dropPolicy 0 + bit pt.sluiceOn 1)
  | 0x204 => BitVec.ofNat 32 pt.gencur
  | 0x208 => loWord pt.grhlist
  | 0x20C => hiWord pt.grhlist
  | 0x210 => pt.grhcnt
  | 0x214 => BitVec.ofNat 32 pt.hbmFree.length
  | 0x218 => loWord pt.grclist
  | 0x21C => hiWord pt.grclist
  | 0x220 => pt.grccnt
  | 0x224 => BitVec.ofNat 32 pt.capFree.length
  | _ => 0

/-- The partition's energy counter after this tick's energy, which saturates (R342). -/
def energyNow (s : State) (p : Nat) : Nat := min ((partAt s p).energy + Config.energy s.tick) (2 ^ 64 - 1)

/-- ENERGYLO_READ (R343), of 4 bytes: the low half, with the high half latched for the requester. -/
def execEnergyloRead (p req : Nat) (s : State) : Out :=
  let e := energyNow s p
  .next { modPart s p fun pt =>
      { pt with energy := e, energyHi := cellPut 0 req (BitVec.ofNat 32 (e / 2 ^ 32)) pt.energyHi } with
    lastRead := BitVec.ofNat 64 (e % 2 ^ 32) }

/-- An 8-byte read at 0x120 returns both halves of one instant, and latches nothing (R343). -/
def readEnergy (p : Nat) (s : State) : State :=
  let e := energyNow s p
  { modPart s p fun pt => { pt with energy := e } with lastRead := BitVec.ofNat 64 e }

/-- ENERGYHI_READ (R343): the requester's latch, zero before its first read of ENERGYLO. -/
def execEnergyhiRead (p req : Nat) (s : State) : Out :=
  .next { s with lastRead := zext (cellGet 0 req (partAt s p).energyHi) }

/-! ## Bandwidth shares (R301) -/

/-- BANDWIDTH_INTERVAL (R301): with each 1 µs interval, once, every stack gives every partition its credit. -/
def execBandwidthInterval (s : State) : Out := .next (renewed s)

/-- The thermal step of a temperature (R301). -/
def thermalStep (celsius : Nat) : Nat := if celsius < 85 then 0 else if celsius < 95 then 1 else if celsius < 105 then 2 else 3

/-- MEMORY_THERMAL_STEP (R301): a step change is told to every partition with a share. -/
def execMemoryThermalStep (stack celsius : Nat) (s : State) : Out :=
  let n := thermalStep celsius
  if 12 ≤ stack || (nth {} s.hbmStacks stack).step == n then .next s
  else
    let s := renewed s
    let s := { s with hbmStacks := upd s.hbmStacks stack fun k => { k with step := n } }
    .next (each ((List.range 12).filter fun p => (cfgOf s p).share != 0)
      (fun p s => ringEntry s p 13 0 0 0xFFFFFFFF 0 (stack * 16 + n)) s)

end Sys2Proof.Machine
end

