-- ==== Sys2Proof/Machine/Generations.lean ====
section
/-!
DEFINITION. Generations and the sluice (R305 to R320): SNAP, CUT (the cut itself is in Clock), GENQ, GREL, BACKGROUND_COPIER, SLUICE.
-/

namespace Sys2Proof.Machine

/-! ## SNAP and the cut (R307, R313, R316) -/

/-- Drops the oldest held closed generation (R313). -/
def dropOldest (pt : Partition) : Partition :=
  match pt.gens with
  | [] => pt
  | x :: _ => endGen pt x.num 6

/-- SNAP (R316): the release, then the request. A request that finds three closed generations held, those about to close
included, gives 0 under policy 0 and drops the oldest under policy 1; requests of one window share their cut. -/
def snapFx (v : Env) : Eff :=
  let p := v.gr.part
  match captureAll v.s v.g with
  | none => { s := v.s, flow := .yield }
  | some s =>
    if !(groupAcked s v.g) || !(clusterPerformed s v.g) then { s := s, flow := .yield }
    else
      let k := s.now / 8
      let pt := partAt s p
      let ask (s : State) : Eff :=
        { s := modPart s p fun pt => { pt with cuts := if pt.cuts.contains k then pt.cuts else pt.cuts ++ [k] }
          flow := .hold .waitBit (some (.snap v.d k)) }
      if pt.cuts.contains k || pt.gens.length + pt.cuts.length < 3 then ask s
      else if !pt.dropPolicy || pt.gens.isEmpty then
        { s := modGroup s v.g fun gr => snapWrite gr v.e v.d 0, flow := .endRun }
      else ask (modPart s p dropOldest)
def execSnap (d a b : Byte) (s : State) : Out := issue1 0xC4 d a b snapFx s

/-- CUT (R307, R316): every request of a window closes the current generation together, as soon as the start of the second
window after it has come. -/
def execCut (p : Nat) (s : State) : Out := .next (cutAll s p)

/-! ## GENQ and GREL (R318, R319) -/

/-- GENQ (R318): the generation controller's answer returns as a result. -/
def genqFx (v : Env) : Eff :=
  let (id, s) := fresh v.s
  let r : Req :=
    { id := id, iid := id, what := .genq (sGet v.gr v.q0 v.a).toNat, file := .seq, lane := v.act.headD 0
      lanes := maskOf 64 v.act, base := v.d, regs := 2 }
  { s := modGroup s v.g fun gr => { gr with reqs := gr.reqs ++ [r] } }
def execGenq (d a b : Byte) (s : State) : Out := issue1 0xC5 d a b genqFx s

/-- GREL (R319): a release at device scope, then the retirement. -/
def grelFx (v : Env) : Eff :=
  let p := v.gr.part
  let g := (sGet v.gr v.q0 v.a).toNat
  let c := genState (partAt v.s p) g
  if c == 0 || c == 1 then v.allFault 5 v.pc
  else match captureAll v.s v.g with
    | none => { s := v.s, flow := .yield }
    | some s =>
      if !(groupAcked s v.g) || !(clusterPerformed s v.g) then { s := s, flow := .yield }
      else { s := modPart s p fun pt => endGen pt g 5, flow := .endRun }
def execGrel (d a b : Byte) (s : State) : Out := issue1 0xC6 d a b grelFx s

/-! ## The copier and the sluice (R310, R311, R315) -/

/-- BACKGROUND_COPIER (R310): a remaining sector of a new backing is filled; an HBM block comes before a capacity block of
the same number. -/
def execBackgroundCopier (p blk sector : Nat) (s : State) : Out :=
  match (partAt s p).live.filter fun b => b.blk == blk && !b.full with
  | [] => .next s
  | l =>
    let kind := if l.any (·.kind == 0) then 0 else 1
    if 2048 ≤ sector then .next s else .next (modPart s p fun pt => fillSector pt kind blk sector)

/-- Whether a fill still reads from a backing. -/
def fillReads (pt : Partition) (b : Backing) : Bool :=
  pt.live.any fun l => l.kind == b.kind && l.blk == b.blk && !l.full && l.gen == b.hi + 1

/-- Whether a generation reaches an HBM backing. -/
def reachesHbm (g : Nat) (b : Backing) : Bool := b.kind == 0 && !b.moved && decide (b.lo ≤ g) && decide (g ≤ b.hi)

/-- Sets the state code of a held generation. -/
def setCode (pt : Partition) (g code : Nat) : Partition :=
  { pt with gens := pt.gens.map fun x => if x.num == g then { x with code := code } else x }

/-- Moves one backing of generation g to a capacity frame: the HBM frame is freed (R311, R312), and every draining generation that has
none left is drained (R314). -/
def moveBacking (pt : Partition) (g : Nat) (b : Backing) (f : Nat) (rest : List Nat) : Partition :=
  let gone := pt.leftList.contains (0, b.frame)
  let pt := { pt with
    backings := pt.backings.map fun x => if x == b then { x with frame := f, moved := true } else x
    capFree := rest
    hbmFree := if gone then pt.hbmFree else pt.hbmFree ++ [b.frame]
    leftList := pt.leftList.filter (· != (0, b.frame))
    returned := if gone then pt.returned ++ [(0, b.frame)] else pt.returned }
  let pt := setCode pt g 3
  { pt with gens := pt.gens.map fun x => if x.code == 3 && genWork pt x.num == 0 then { x with code := 4 } else x }

/-- SLUICE (R315): of the oldest held generation that is not drained, one HBM backing is copied to the capacity tier. DESIGN CHOICE
(log 74): of its backings the one superseded longest ago goes first, to the first free frame of the capacity reserve. -/
def execSluice (p : Nat) (s : State) : Out :=
  let f (pt : Partition) : Partition :=
    match (if pt.sluiceOn then pt.gens.find? fun x => x.code != 4 else none) with
    | none => pt
    | some x =>
      if genWork pt x.num == 0 then setCode pt x.num 4
      else match pt.capFree, pt.backings.reverse.find? fun b => reachesHbm x.num b && !(fillReads pt b) with
        | c :: rest, some b => moveBacking pt x.num b c rest
        | c :: _, none => let _ := c; setCode pt x.num 3
        | [], _ => pt
  .next (modPart s p f)

end Sys2Proof.Machine
end

