-- ==== Sys2Proof/Machine/JumpTable.lean ====
section
/-!
DEFINITION. JT (R118, R119): it issues once its entry loads fit in the miss table, opens or reuses its region, parks
until every entry load has returned, and then distributes its quads.
-/

namespace Sys2Proof.Machine

/-- Length and join offset of a quad's JT. -/
def jtLen (v : Env) (k : Nat) : Nat := (sGet v.gr k v.b).toNat % 65536
def jtJoin (v : Env) (k : Nat) : DWord := offsetAddr v.pc (hiHalf (sGet v.gr k v.b)).toInt
where
  /-- Bits [31:16], signed. -/
  hiHalf (w : Word) : BitVec 16 := w.extractLsb' 16 16

/-- The entry load of a lane; none at or beyond its quad's length. -/
def jtAsk (v : Env) (iid l : Nat) : Option Ask :=
  let i := (vGet v.gr l v.d).toNat
  let va := sPair v.gr (l / 4) v.a + BitVec.ofNat 64 (4 * i)
  if jtLen v (l / 4) ≤ i then none
  else some
    { iid := iid, lane := l, who := [l], va := va, size := 4, align := 4, kind := .read
      req := some { iid := iid, what := .entry {}, lane := l, lanes := BitVec.twoPow 64 l, regs := 0, va := va
                    slack := slackOf v.s v.g (Table.slkOf (modeOf v.gr (l / 4))) } }

/-- Whether the region of the split is served again by this JT. -/
def jtReuses (v : Env) (join : DWord) : Bool :=
  match v.sp.inner with
  | none => false
  | some n => let r := regionAt v.gr n; r.phase == 1 && r.dtarget == v.pc && r.joinpc == join

/-- The region of this JT, opened or brought into use; none where its record cannot be written (code 14). -/
def jtRegion (v : Env) (join : DWord) : Option (State × Nat) :=
  match v.sp.inner, jtReuses v join with
  | some n, true =>
    (regionLoad v.s v.g n).map fun s =>
      (modGroup s v.g fun gr =>
        let gr := modRegion gr n fun r => { r with arrived := r.arrived &&& ~~~v.sp.qmask, phase := 0 }
        modSplit gr v.e fun sp => { sp with inPass := (regionAt gr n).pass }, n)
  | _, _ => openRegion v.s v.g v.e join v.pc v.pc v.nextPc true

/-- The entry loads of the split's lanes. -/
def jtEntries (gr : Group) (act : List Nat) : List Req :=
  gr.reqs.filter fun r => (match r.what with | .entry _ => true | _ => false) && act.contains r.lane

/-- Where the quads of a JT go, once every entry is known: dest is a lane's destination, quads those that go, entry the lanes
that have an entry. -/
def jtDistribute (v : Env) (n : Nat) (quads act : List Nat) (dest : Nat → DWord) (entry : Nat → Bool) (gr : Group) : Group :=
  let lanesIn (k : Nat) : List Nat := act.filter (· / 4 == k)
  let d (k : Nat) : DWord := dest ((lanesIn k).headD 0)
  let odd : LaneMask := maskOf 64 ((quads.flatMap lanesIn).filter fun l => dest l != d (l / 4))
  let gr := modRegion gr n fun r => { r with defer := r.defer ||| odd }
  let gr := modSplit gr v.e fun sp => { sp with act := sp.act &&& ~~~odd }
  let keep := match quads with | [] => v.nextPc | k :: _ => d k
  -- a lane that its entry sends is checked as it arrives, and the lanes of its quad with it where it decides for them (R119)
  let arr (ks : List Nat) : List Arrive :=
    v.arrives (maskOf 64 (ks.flatMap fun k => (lanesIn k).filter fun l =>
      dest l == d k && (entry l || entry ((lanesIn k).headD 0)))) false (some n)
  let gr := ((distinct (quads.map d)).filter (· != keep)).foldl (fun gr t =>
    let ks := quads.filter fun k => d k == t
    let qm : QuadMask := maskOf 16 ks
    let mine := (splitAt gr v.e).act &&& lanesOfQuads qm
    match (if v.e == 8 then none else freeEntry gr) with
    | some e' =>
      let gr := modSplit gr e' fun _ => { v.formed t qm (some n) (arr ks) v.sp.inPass with act := mine }
      modSplit gr v.e fun sp => { sp with qmask := sp.qmask &&& ~~~qm, act := sp.act &&& ~~~mine }
    | none =>
      let gr := modRegion gr n fun r => { r with defer := r.defer ||| mine }
      modSplit gr v.e fun sp => { sp with act := sp.act &&& ~~~mine }) gr
  modSplit gr v.e fun sp =>
    { sp with pc := keep, arrive := arr (quads.filter fun k => d k == keep), park := none, st := .issuing
              count := sp.count + 1 }

/-- The end of a JT: lanes that read a poisoned entry die, lanes whose load failed fault, the other quads go. -/
def jtEnd (v : Env) (n : Nat) : Eff :=
  let dead := ((jtEntries v.gr v.act).filter (·.poisoned)).map (·.lane)
  let s := regionTake v.s v.g n
  let s := if dead.isEmpty then s else
    killLanes (modGroup s v.g fun gr => { gr with reqs := gr.reqs.filter fun r => !(isEntry r.what && dead.contains r.lane) })
      v.g dead v.pc
  let gr := groupAt s v.g
  let sp := splitAt gr v.e
  if !sp.valid || sp.act == 0 || sp.st == .atJoin || sp.pc != v.pc then { s := s, flow := .placed true }
  else
    let act := (bitsOf sp.act).filter fun l => v.quads.contains (l / 4)
    let es := jtEntries gr act
    let failed := (es.filter fun r => r.mark % 256 != 0).map fun r => (r.lane, r.mark % 256, r.va)
    let faults := sortBy (fun x y => x.1 ≤ y.1) failed
    let ft := maskOf 64 ((es.filter fun r => 256 ≤ r.mark).map (·.lane))
    let gr := { gr with reqs := gr.reqs.filter fun r => !(es.any (·.id == r.id)) }
    let quads := (bitsOf (quadsOfLanes (maskOf 64 act))).filter fun k => !(faults.any (·.1 / 4 == k))
    let entry (l : Nat) : Bool := es.any (·.lane == l)
    let dest (l : Nat) : DWord :=
      match es.find? (·.lane == l) with
      | some r => offsetAddr v.pc ((r.data.getD []).headD 0).toInt
      | none => v.nextPc
    let back := sp.rejoin &&& lanesOfQuads (maskOf 16 v.quads)
    let act' := act ++ bitsOf back
    let gr := modSplit gr v.e fun sp => { sp with act := sp.act ||| back, rejoin := sp.rejoin &&& ~~~back }
    -- a lane that only now becomes active again follows its quad
    let dest' (l : Nat) : DWord :=
      if act.contains l then dest l else match act.find? (· / 4 == l / 4) with | some j => dest j | none => v.nextPc
    { s := settled (modGroup s v.g fun _ => jtDistribute v n quads (sortBy (· ≤ ·) act') dest' entry gr) v.g
      faults := faults, ft := ft, resume := .jtLoad n, flow := .placed true }

/-- The entry loads of a JT have all been made: the split waits for those that have still to return. -/
def jtLoaded (v : Env) : Eff :=
  if (jtEntries v.gr v.act).any (!·.back) then { s := v.s, flow := .hold .waitBit (some .entries) }
  else jtEnd v (v.sp.inner.getD 0)

/-- JT (R118, R119). -/
def jtFx (v : Env) : Eff :=
  match v.sp.park with
  | some .entries => jtEnd v (v.sp.inner.getD 0)
  | some (.walk _) => jtLoaded v
  | _ =>
    let join := jtJoin v v.q0
    let (iid, s) := fresh v.s
    let asks := v.act.filterMap (jtAsk v iid)
    let need := (v.sectors asks).length
    if v.quads.any fun k => jtJoin v k != join then v.allFault 5 v.pc
    else if missFree v.s v.gr.part v.gr.core < need then { s := v.s, flow := .yield }
    else match jtRegion { v with s := s } join with
      | none => v.overflow
      | some (s, _) => match { v with s := s }.begin' asks none need with
        | .held f => if f.flow == .yield then { s := v.s, flow := .yield } else f.again
        | .done s _ => jtLoaded { v with s := s }
def execJt (d a b : Byte) (s : State) : Out := issue1 0x06 d a b jtFx s

end Sys2Proof.Machine
end

