-- ==== Sys2Proof/Machine/Reliability.lean ====
section
/-!
DEFINITION. Restarts (R258, R328, R329), the rotating scan and retirement (R321, R322, R333 to R336), throttling and droop
(R340, R341), trips and overheat (R358).
-/

namespace Sys2Proof.Machine

/-! ## Restart (R328, R329, R258) -/

/-- Whether a split has issued nothing that still waits for its translation and is then a result or a store. -/
def walksDone (sp : Split) : Bool :=
  (waitingOf sp).all fun w => w.asks.all fun a => a.write.isNone && a.req.all fun r => isPrefetch r.what

/-- Whether what a group has begun is done: results written, stores performed, those that wait for translations among them, engine
commands that it has issued performed. -/
def restartQuiet (s : State) (g : Nat) : Bool :=
  let gr := groupAt s g
  gr.reqs.all (fun r => isPrefetch r.what) && groupDrained s g && gr.splits.all (fun sp => !sp.valid || walksDone sp)
    && (wgAt s gr.wg).commands.all (fun c => c.group != g)
    && !(s.cores.any fun c => c.mmas.any fun m => m.group == g)

/-- The handler split of a group ends without its return: its quads take their registers back (R258), a reserved MODE apart
(modeFrom). -/
def endHandler (s : State) (g : Nat) : State :=
  match (groupAt s g).frame with
  | none => s
  | some _ =>
    let s := each (bitsOf (splitAt (groupAt s g) 8).qmask) (restoreQuad s g) s
    modGroup s g fun gr => { gr with frame := none, waiting := [] }

/-- Errored words of marked registers become zero with good ECC (R329). -/
def scrub (gr : Group) : Group :=
  let lane (ln : Lane) : Lane :=
    let bad := ln.errV.filter gr.writtenV.contains
    let ln := each bad (fun r ln => { ln with v := cellPut 0 r 0 ln.v, errV := setDel r ln.errV, poison := setDel r ln.poison }) ln
    let badP := ln.errP.filter gr.writtenP.contains
    each badP (fun r ln => { ln with p := ln.p &&& ~~~(BitVec.twoPow 16 r), errP := setDel r ln.errP }) ln
  let quad (q : Quad) : Quad :=
    let bad := q.errS.filter gr.writtenS.contains
    let q := each bad (fun r q => { q with s := cellPut 0 r 0 q.s, errS := setDel r q.errS, poison := setDel r q.poison }) q
    { q with lanes := q.lanes.map lane }
  { gr with quads := gr.quads.map quad }

/-- The group stands at its restart point with one split and no regions (R126). -/
def resumeAtRestart (now : Nat) (gr : Group) : Group :=
  let live := liveMask gr
  let qm := quadsOfLanes live
  let sp : Split := { valid := true, qmask := qm, pc := gr.restart, act := live, age := now }
  { gr with
    splits := (if qm == 0 then {} else sp) :: List.replicate 8 {}, regions := [], restarting := false, resumed := true
    waiting := [], frame := none }

/-- RESTART (R328): once its results have come and its stores are performed, the group resumes at its restart point. -/
def execRestart (g : Nat) (s : State) : Out :=
  let gr := groupAt s g
  if !gr.restarting || gr.gone || !(groupCounts gr) || !(restartQuiet s g) then .next s
  else
    let s := ringGroup s g 7 0 gr.restartMem
    let s := endHandler s g
    .next (modGroup s g fun gr => resumeAtRestart s.tick (scrub gr))

/-! ## The rotating scan (R333 to R336) -/

/-- The partition and logical core that a core (physical cluster × 8 + logical core within it) serves. -/
def servesAs (s : State) (core : Nat) : Option (Nat × Nat) :=
  (List.range 12).findSome? fun p =>
    match (partAt s p).cfg with
    | none => none
    | some c => (c.clmap.findIdx? (· == core / 8)).map fun k => (p, 8 * k + core % 8)

/-- The cores of batch b of the rotation: six, of different clusters. -/
def batchCores (b : Nat) : List Nat := (List.range 6).map fun i => let n := 6 * b + i; n % 12 * 8 + n / 12

/-- The cores of a batch with cores sent forward in it: each in place of one of its cluster, else of the first that is not placed so
(R333); of two of one cluster the second waits for the batch after. -/
def withForward (batch placed : List Nat) : List Nat → List Nat
  | [] => batch
  | f :: rest =>
    if 6 ≤ placed.length || placed.any fun c => c / 8 == f / 8 then withForward batch placed rest
    else
      let i := ((batch.findIdx? fun c => c / 8 == f / 8).or (batch.findIdx? fun c => !(placed.contains c))).getD 0
      withForward (if batch.contains f then batch else batch.set i f) (f :: placed) rest

/-- Changes a core by its number. -/
def modCoreNo (s : State) (core : Nat) (f : Core → Core) : State := { s with cores := upd s.cores core f }

/-- SCAN_DRAIN (R333): the next batch begins to drain. -/
def execScanDrain (s : State) : Out :=
  let batch := withForward (batchCores (s.scanPos % 16)) [] (positions (fun (c : Core) => c.forward) s.cores)
  let s := each batch (fun c s => modCoreNo s c fun x => { x with draining := true, drainStart := s.now, forward := false }) s
  .next { s with scanPos := (s.scanPos + 1) % 16 }

/-- Whether a granule is one of a core that a scan saves. -/
def scanned (n : Nat) : Granule → Bool
  | .slice c _ | .acc c _ | .scale c _ | .slot c _ => c == n
  | _ => false

/-- The granules of a core that a scan saves: all but its pool slice (R334). -/
def coreGranules (s : State) (p core : Nat) : List Granule :=
  (heldGranules s p (core / 8)).filter (scanned core)

/-- Saves a scanned core that has come to rest. -/
def saveCore (s : State) (core : Nat) : State :=
  match servesAs s core with
  | none => s
  | some (p, n) =>
    if coreQuiet s p n then
      ((coreGranules s p n).filter fun g => !((partAt s p).saved.contains g)).foldl (fun (s : State) g => saveGranule s p g) s
    else s

/-- SCAN (R334): a drained core's scan begins, and its workgroups stand still. -/
def execScan (core : Nat) (s : State) : Out :=
  if (nth {} s.cores core).draining then
    .next (saveCore (modCoreNo s core fun x => { x with draining := false, scanning := true }) core)
  else .next s

/-- Writes CONFIRM of a completion record (R321, R322). -/
def writeConfirm (s : State) (p : Nat) (home : Option Loc) (v : Nat) : State := recordWrite s p home 4 (leBytes 4 v)

/-- Logical core n has passed a scan: entries whose END came before its drain count it, and those with every core passed are
confirmed (R321). -/
def passCore (s : State) (p n drainStart : Nat) : State :=
  let seen (e : Confirm) : Confirm :=
    if e.cores.getLsbD n && e.fin < drainStart then { e with passed := e.passed ||| BitVec.twoPow 128 n } else e
  let all := (partAt s p).confirm.map seen
  let done (e : Confirm) : Bool := (e.cores &&& ~~~e.passed) == 0
  let s := modPart s p fun pt => { pt with confirm := all.filter fun e => !(done e) }
  let s := (all.filter done).foldl (fun (s : State) (e : Confirm) => writeConfirm s p e.home 1) s
  flushFinals s p

/-- Logical core n has failed: the entries that hold it become suspect (R322). -/
def suspectCore (s : State) (p n : Nat) : State :=
  let bad := (partAt s p).confirm.filter fun e => e.cores.getLsbD n
  let s := modPart s p fun pt => { pt with confirm := pt.confirm.filter fun e => !(e.cores.getLsbD n) }
  let s := bad.foldl (fun (s : State) (e : Confirm) => writeConfirm s p e.home 2) s
  flushFinals (ringEntry s p 11 0 0 0xFFFFFFFF n n) p

/-- The workgroups of a scanned core go on, their granules read back (R262, R334). -/
def releaseCore (s : State) (core : Nat) : State :=
  let s := modCoreNo s core fun x => { x with scanning := false }
  match servesAs s core with
  | none => s
  | some (p, n) =>
    let held := (partAt s p).saved
    let s := (held.filter (scanned n)).foldl (restoreGranule p) s
    let s := modPart s p fun pt => { pt with saved := pt.saved.filter fun g => !(scanned n g) }
    { s with groups := s.groups.map fun gr =>
        if gr.part == p && gr.core == n then freshReady s.tick (held.contains (.slot gr.core gr.slot)) gr else gr }

/-- A cluster without a spare leaves its partition (R295, R297, R335). -/
def leaveCluster (s : State) (p k : Nat) : State :=
  let s := preempt (vacate p k s) p [k]
  modPart s p fun pt => { pt with cfg := pt.cfg.map fun c => { c with clmap := c.clmap.set k 255 } }

/-- A core is retired: the spare takes its number where there is one (R295, R335); the log keeps it (R353). -/
def retireCore (s : State) (core : Nat) : State :=
  let cl := core / 8
  let s := if (clusterAt s cl).spares == 0 then
      modCluster s cl fun x => { x with goodCores := x.goodCores.set (core % 8) 255 }
    else modCluster s cl fun x => { x with spares := x.spares - 1, goodCores := x.goodCores.set (core % 8) 8 }
  obsLog s 15 2 core

/-- The spare core of a cluster, whose number for the log is 96 plus the cluster's, is retired: it serves no logical core any more. -/
def retireSpare (s : State) (cl : Nat) : State :=
  obsLog (modCluster s cl fun x =>
    { x with spares := 0, goodCores := x.goodCores.map fun k => if k == 8 then 255 else k }) 15 2 (96 + cl)

/-- A module that comes up is ready once every physical core, the spares among them, has been scanned (R360 steps 4 to 6). -/
def readied (s : State) : State :=
  if s.off || s.obs.recovery || s.cores.any (·.scanning) || s.clusters.any (·.spareScan) then s else { s with isReady := true }

/-- The scan of a cluster's spare core ends (R360 step 4). -/
def endSpareScan (cl : Nat) (pass : Bool) (s : State) : State :=
  if (clusterAt s cl).spareScan then
    let s := modCluster s cl fun x => { x with spareScan := false }
    readied (if pass then s else retireSpare s cl)
  else s

/-- SCAN_COMPLETION (R335, R321): a scan passes, or fails and retires the core; from 96 on, that of a cluster's spare core. -/
def execScanCompletion (core : Nat) (pass : Bool) (s : State) : Out :=
  let c := nth {} s.cores core
  if 96 ≤ core then .next (endSpareScan (core - 96) pass s)
  else if !c.scanning then .next s
  else match servesAs s core with
    | none => .next (readied (let s := releaseCore s core; if pass then s else retireCore s core))
    | some (p, n) =>
      let k := n / 8
      let last := !pass && (clusterAt s (core / 8)).spares == 0
      if !(coreQuiet s p n) then .next s
      else if last && !(clusterQuiet s p k) then .next (preempt s p [k])
      else
        let s := saveCore s core
        if pass then .next (passCore (releaseCore s core) p n c.drainStart)
        else
          let s := suspectCore (retireCore s core) p n
          if last then .next (leaveCluster (releaseCore s core) p k) else .next (releaseCore s core)

/-! ## Throttling (R340, Table 22.4) -/

/-- POWER_CAP_STEP (R340): a millisecond over the cap lowers the clock by one more step. -/
def execPowerCapStep (watts : Nat) (s : State) : Out :=
  .next { s with obs := { s.obs with lowered := if s.obs.cap < watts then min 20 (s.obs.lowered + 1) else 0 } }

/-- Changes the clusters of a list. -/
def modClusters (s : State) (cs : List Nat) (f : Cluster → Cluster) : State := each cs (fun c s => modCluster s c f) s

/-- The clusters of a die. -/
def dieClusters (die : Nat) : List Nat := [3 * die, 3 * die + 1, 3 * die + 2]

/-- CORE_THERMAL (R340): at 105 °C the clock of the die's clusters is halved. -/
def execCoreThermal (die celsius : Nat) (s : State) : Out :=
  if 4 ≤ die || celsius < 105 then .next s
  else .next (modClusters { s with dieHot := upd s.dieHot die fun _ => true } (dieClusters die) fun x => { x with thermal := true })

/-- CORE_THERMAL_RELEASE (R340): below 100 °C. -/
def execCoreThermalRelease (die celsius : Nat) (s : State) : Out :=
  if 4 ≤ die || 100 ≤ celsius then .next s
  else .next (modClusters { s with dieHot := upd s.dieHot die fun _ => false } (dieClusters die) fun x => { x with thermal := false })

/-- Changes a rail, 1 to 4. -/
def modRail (s : State) (r : Nat) (f : Rail → Rail) : State := if r == 0 then s else { s with rails := upd s.rails (r - 1) f }

/-- RAIL_LIMIT (R340): at 1,800 A the clocks of the rail's clusters are stretched. -/
def execRailLimit (r amps : Nat) (s : State) : Out :=
  if amps < 1800 then .next s else .next (modRail s r fun x => { x with limited := true })

/-- RAIL_LIMIT_RELEASE (R340): below 1,750 A. -/
def execRailLimitRelease (r amps : Nat) (s : State) : Out :=
  if 1750 ≤ amps then .next s else .next (modRail s r fun x => { x with limited := false })

/-! ## Droop (R341) -/

/-- The least recently matched entry of a table. -/
def oldestDroop (l : List Droop) : Option Droop :=
  l.foldl (fun acc d => match acc with | none => some d | some b => if d.used < b.used then some d else acc) none

/-- A table after a droop with a signature. -/
def enterDroop (l : List Droop) (sig : BitVec 24) (now : Nat) : List Droop :=
  if l.any (·.sig == sig) then
    l.map fun d => if d.sig == sig then { d with conf := min 3 (d.conf + 1), used := now } else d
  else
    let l := if l.length < 64 then l else match oldestDroop l with | some d => l.erase d | none => l
    l ++ [{ sig := sig, conf := 1, used := now }]

/-- DROOP_DETECTION (R341). -/
def execDroopDetection (cl : Nat) (sig : BitVec 24) (s : State) : Out :=
  .next (modCluster s cl fun x => { x with droop := enterDroop x.droop sig s.tick })

/-- DROOP_PREDICTION (R341): a match of confidence 2 or more stretches the clock for 64 cycles. -/
def execDroopPrediction (cl : Nat) (sig : BitVec 24) (s : State) : Out :=
  .next (modCluster s cl fun x =>
    if x.droop.any fun d => d.sig == sig && 2 ≤ d.conf then
      { x with droopCycles := x.droopCycles + 64
               droop := x.droop.map fun d => if d.sig == sig then { d with used := s.tick } else d }
    else x)

/-- CONFIDENCE_DECAY (R341): an entry that falls to 0 is free. -/
def execConfidenceDecay (s : State) : Out :=
  .next { s with clusters := s.clusters.map fun x =>
    { x with droop := (x.droop.map fun d => { d with conf := d.conf - 1 }).filter fun d => d.conf != 0 } }

/-! ## Hardware bounds (R358, Table 23.3) -/

/-- RAIL_TRIP (R358): 1,875 A for 1 µs gates the clusters that the rail carries until it is released; the log records it. -/
def execRailTrip (r amps : Nat) (s : State) : Out :=
  if amps < 1875 || r == 0 || 4 < r then .next s
  else .next (obsLog (modRail s r fun x => { x with tripped := true }) 15 5 r)

/-- RAIL_TRIP_RELEASE (R358): below 1,700 A. -/
def execRailTripRelease (r amps : Nat) (s : State) : Out :=
  if 1700 ≤ amps then .next s else .next (modRail s r fun x => { x with tripped := false })

/-- HBM_TRIP (R358): at 110 °C the stack's controllers issue nothing. -/
def execHbmTrip (stack celsius : Nat) (s : State) : Out :=
  if 12 ≤ stack || celsius < 110 then .next s
  else .next (obsLog { s with hbmStacks := upd s.hbmStacks stack fun k => { k with tripped := true } } 15 5 (256 + stack))

/-- HBM_TRIP_RELEASE (R358): at 100 °C they issue again. -/
def execHbmTripRelease (stack celsius : Nat) (s : State) : Out :=
  if 12 ≤ stack || 100 < celsius then .next s
  else .next { s with hbmStacks := upd s.hbmStacks stack fun k => { k with tripped := false } }

/-- What a cut of the core, SRAM and HBM power, or a module reset, leaves: the fuses, the log, the image slots, the
persistent state, the energy counters (R342), and what lies outside the module (R358, R360). -/
def powerCut (s : State) : State :=
  { agenda := s.agenda, tick := s.tick, nextId := s.nextId, now := s.now, host := s.host, peer := s.peer
    clusters := s.clusters.map fun x => { spares := x.spares, goodCores := x.goodCores }
    links := s.links.map fun x => { retired := x.retired, rxspare := x.rxspare, txspare := x.txspare }
    fibres := s.fibres.map fun x => { spare := x.spare }
    parts := s.parts.map fun pt => { energy := pt.energy, energyHi := pt.energyHi }
    obs := s.obs, isReady := false, off := true }

/-- OVERHEAT (R358): 120 °C on a stack or 125 °C on a die cuts the power; only a module reset recovers. -/
def execOverheat (stackC dieC : Nat) (s : State) : Out :=
  if stackC < 120 && dieC < 125 then .next s else .next (obsLog (powerCut s) 15 5 512)

end Sys2Proof.Machine
end

