-- ==== Sys2Proof/Machine/Links.lean ====
section
/-!
DEFINITION. Rail registers (R338, R339), optical links (R344 to R347), rings and heaters (R348 to R350).
-/

namespace Sys2Proof.Machine

/-! ## Rails (R339, Table 22.3) -/

/-- RAIL_WRITE (R339): FREE is written; APER only while the rail carries no cluster, with a value 0 to 7 within the
Observatory's bound (R338). -/
def execRailWrite (n : Nat) (v : Word) (s : State) : Out :=
  let a := (v.extractLsb' 16 4).toNat
  if n == 0 || 4 < n then .next s
  else
    let empty := (onRail s n).isEmpty
    let s := { s with rails := upd s.rails (n - 1) fun r =>
      let r := { r with free := v.getLsbD 29 }
      if !empty || 8 ≤ a || a == r.aper || (r.boundAper != 0 && a != 0 && a != r.boundAper) then r
      else { r with aper := a, busy := true } }
    -- the bound of Table 23.3 has acted where no aperture of that number is fused
    .next (if empty && 8 ≤ a then obsLog s 15 7 n else s)

/-- RAIL_SETTLED (R339). -/
def execRailSettled (n : Nat) (s : State) : Out :=
  if n == 0 then .next s
  else .next
    { s with
      rails := upd s.rails (n - 1) fun r => { r with busy := false }
      clusters := s.clusters.map fun c => if c.rail == n then { c with switching := false } else c }

/-- RAILn as software reads it (Table 22.3). -/
def railWord (s : State) (n : Nat) : Word :=
  let r := nth {} s.rails (n - 1)
  let on := onRail s n
  BitVec.ofNat 32 ((if r.free then 2 ^ 29 else 0) + (if r.busy then 2 ^ 28 else 0) + on.length % 16 * 2 ^ 20 + r.aper * 2 ^ 16
    + ampsSum s on)

/-- CLRAIL as software reads it (Table 22.3). -/
def clrailWord (s : State) : Word :=
  BitVec.ofNat 32 ((List.range 12).foldl (fun n c => n + ((clusterAt s c).rail - 1) % 4 * 4 ^ c) 0)

/-! ## Optical links (R346, R347) -/

def linkAt (s : State) (n : Nat) : Link := nth {} s.links n
def modLink (s : State) (n : Nat) (f : Link → Link) : State := { s with links := upd s.links n f }

/-- STATE of Table 23.1. -/
def linkCode (st : LinkState) : Nat :=
  match st with | .off => 0 | .training => 1 | .full => 2 | .parked => 3 | .waking => 4 | .down => 5

/-- LNKCTL and LNKSTAT as software reads them (Table 23.1). -/
def lnkctlWord (l : Link) : Word :=
  BitVec.ofNat 32 (l.parkhold.toNat * 2 ^ 16 + l.wakeq.toNat * 2 ^ 8 + (if l.parken then 2 else 0) + if l.enable then 1 else 0)
def lnkstatWord (l : Link) : Word :=
  BitVec.ofNat 32 (l.active.toNat * 2 ^ 16 + l.retired.toNat * 2 ^ 8 + (if l.rxspare then 16 else 0)
    + (if l.txspare then 8 else 0) + linkCode l.st)

/-- The packets that wait for a link: those of the partitions it is granted to. -/
def linkQueue (s : State) (n : Nat) : List Pkt := (packets s).filter (waitsFor s n)

/-- The wavelengths of a link that are not retired. -/
def goodSet (l : Link) : BitVec 8 := ~~~l.retired

/-- The two lowest wavelengths that are not retired. -/
def parkSet (l : Link) : BitVec 8 := maskOf 8 ((bitsOf (goodSet l)).take 2)

/-- The wavelengths of link n under reassignment at either fibre end of its port (R350). -/
def tuningOf (s : State) (n : Nat) : BitVec 8 :=
  let t (fe : Nat) : BitVec 16 := (nth {} s.fibres fe).tuning
  ((t (n / 2 * 2) ||| t (n / 2 * 2 + 1)) >>> (8 * (n % 2))).setWidth 8

/-- The wavelengths that link n may use: neither retired nor under reassignment (R347). -/
def usable (s : State) (n : Nat) : BitVec 8 := goodSet (linkAt s n) &&& ~~~(tuningOf s n)

/-- Link n restripes to a set: its sender's restripe flit names it, and awaits its acknowledgement (R345). -/
def restripe (s : State) (n : Nat) (set : BitVec 8) : State :=
  modLink s n fun l => if l.active == set then l else { l with active := set, acked := false }

/-- The receiver acknowledges the restripe of link n. -/
def linkAck (n : Nat) (s : State) : State := modLink s n fun l => { l with acked := true }

/-- Link n goes down, and its peers are lost (R245, R350): their losses are what happens next. -/
def linkDown (s : State) (n : Nat) : State :=
  { modLink s n fun l => { l with st := .down, active := 0 } with
    agenda := (((Config.linkPeers n).filter fun x => (cfgOf s x.1).optical.getLsbD n).map fun x => .act (.peerLoss x.1 x.2)) ++ s.agenda }

/-- PARKHOLD in ns, and WAKEQ, as they are read (Table 23.1). -/
def parkholdNs (l : Link) : Nat := 1000 * max 1 l.parkhold.toNat
def wakeDepth (l : Link) : Nat := min 64 (max 1 l.wakeq.toNat)

/-- A disabled link whose queue has drained goes to off (Table 23.1). -/
def linkOff (s : State) (n : Nat) : State :=
  let l := linkAt s n
  if !l.enable && l.st != .down && (linkQueue s n).isEmpty then modLink s n fun l => { l with st := .off, active := 0, acked := true } else s

/-- LNKCTL_WRITE (R346): an enabled link that is off trains. -/
def execLnkctlWrite (n : Nat) (v : Word) (s : State) : Out :=
  let s := modLink s n fun l =>
    { l with
      parkhold := v.extractLsb' 16 8, wakeq := v.extractLsb' 8 8, parken := v.getLsbD 1, enable := v.getLsbD 0
      st := if v.getLsbD 0 && l.st == .off then .training else l.st
      since := if v.getLsbD 0 && l.st == .off then s.now else l.since }
  .next (linkOff s n)

/-- The ring that serves a wavelength of a fibre end: ring j + 1 serves j once wavelengths from i on have moved (R350). -/
def waveRing (f : FibreEnd) (wave : Nat) : Nat :=
  match f.spare with | some i => if i ≤ wave then wave + 1 else wave | none => wave

/-- The wavelength that a ring serves. -/
def ringWave (f : FibreEnd) (ring : Nat) : Nat :=
  match f.spare with | some i => if i < ring then ring - 1 else ring | none => ring

/-- Wavelengths of link n, as wavelengths of its fibres. -/
def fibreWaves (n : Nat) (set : BitVec 8) : List Nat := (bitsOf set).map (8 * (n % 2) + ·)

/-- The fibre ends of link n's port. -/
def portEnds (n : Nat) : List Nat := [n / 2 * 2, n / 2 * 2 + 1]

/-- Changes both fibre ends of link n's port. -/
def modEnds (s : State) (n : Nat) (f : FibreEnd → FibreEnd) : State :=
  { s with fibres := upd (upd s.fibres (n / 2 * 2) f) (n / 2 * 2 + 1) f }

/-- Wavelengths of a fibre end go dark: their lasers and the heaters of the rings that serve them are turned off (R347). -/
def darken (waves : List Nat) (f : FibreEnd) : FibreEnd :=
  waves.foldl (fun f w =>
    { f with codes := f.codes.set (waveRing f w) 0, locked := f.locked &&& ~~~(BitVec.twoPow 17 (waveRing f w))
             lit := f.lit &&& ~~~(BitVec.twoPow 16 w), stuck := f.stuck.set (waveRing f w) none
             clamped := f.clamped &&& ~~~(BitVec.twoPow 17 (waveRing f w)) }) f

/-- The heat of a fibre end, in codes: 40 mW, of which a code c draws c × 4 / 4,095 mW, are 40,950 of them (R348, R358). -/
def heatOf (f : FibreEnd) : Nat := f.codes.foldl (· + ·) 0

/-- A wavelength of fibre end k is lit and its ring locked, at the code that it needs (R347), a free value, or below it where the
heater limit of the end clamps it (R358). -/
def lightWave (tick k : Nat) (f : FibreEnd) (w : Nat) : FibreEnd :=
  let ring := waveRing f w
  if f.locked.getLsbD ring && f.lit.getLsbD w then f
  else
    let want := Config.ringTuned tick (17 * k + ring) % 4096
    let code := min want (40950 - heatOf { f with codes := f.codes.set ring 0 })
    let bit := BitVec.twoPow 17 ring
    { f with
      codes := f.codes.set ring code, locked := f.locked ||| bit, lit := f.lit ||| BitVec.twoPow 16 w
      clamped := if code < want then f.clamped ||| bit else f.clamped &&& ~~~bit, stuck := f.stuck.set ring none }

/-- Wavelengths of a fibre end are lit; a clamp is logged (R358). -/
def lighten (waves : List Nat) (s : State) (k : Nat) : State :=
  let f := nth {} s.fibres k
  let f' := waves.foldl (lightWave s.tick k) f
  let s := { s with fibres := upd s.fibres k fun _ => f' }
  if f'.clamped &&& ~~~f.clamped == 0 then s else obsLog s 15 7 (256 + k)

/-- LINK_PARK (R347): a full link with PARKEN whose queue has been empty for PARKHOLD, and which awaits no acknowledgement, restripes
to its two lowest wavelengths that are not retired, of those it may use, and the others go dark; a disabled link goes off. -/
def execLinkPark (n : Nat) (s : State) : Out :=
  let l := linkAt s n
  if !l.enable then .next (linkOff s n)
  else if l.st == .full && l.parken && l.acked && (linkQueue s n).isEmpty && l.since + parkholdNs l ≤ s.now then
    let s := modLink (restripe s n (parkSet l &&& usable s n)) n fun l => { l with st := .parked }
    .next (modEnds s n (darken (fibreWaves n (~~~(parkSet l)))))
  else .next s

/-- LINK_WAKE (R347): by queue depth or an overdue packet. -/
def execLinkWake (n : Nat) (s : State) : Out :=
  let q := linkQueue s n
  let l := linkAt s n
  if l.st == .parked && (wakeDepth l ≤ q.length || q.any fun p => remaining p.slack s.now == 0) then
    .next (modLink s n fun l => { l with st := .waking, since := s.now })
  else .next s

/-- WAKE_COMPLETE (R347, R350): the wavelengths of a link that wakes or trains have locked, and it restripes to every one that is
neither retired nor under reassignment; with fewer than two that are not retired it is down. A full or parked link restripes to
take in those that have locked since; a parked one lights the wavelength that takes the place of one retired. It waits for the acknowledgement of an earlier restripe. -/
def execWakeComplete (n : Nat) (s : State) : Out :=
  let l := linkAt s n
  let up := l.st == .waking || l.st == .training
  if !l.acked then .next s
  else if (up || l.st == .full) && (bitsOf (goodSet l)).length < 2 then .next (linkDown s n)
  else if up then
    let s := (portEnds n).foldl (lighten (fibreWaves n (usable s n))) s
    .next (modLink (restripe s n (usable s n)) n fun l => { l with st := .full, since := s.now })
  else if l.st == .full then .next (restripe s n (usable s n))
  else if l.st == .parked then
    let set := parkSet l &&& usable s n
    .next (restripe ((portEnds n).foldl (lighten (fibreWaves n set)) s) n set)
  else .next s

/-! ## Rings (R348 to R350, R358) -/

/-- One ring's step: a locked ring's code moves by at most 4 codes, within 0 to 4,095, and does not rise beyond what 40 mW leave for
the fibre end. The bound that has acted: 0 none, 1 the 4 mW of the ring, 2 the 40 mW of the end (R348, R358). -/
def stepRing (locked : Bool) (delta : Int) (c room : Nat) : Nat × Nat :=
  if !locked then (c, 0)
  else
    let want := ((c : Int) + max (-4) (min 4 delta)).toNat
    let c' := min (min 4095 want) (c + room)
    (c', if c' < min 4095 want then 2 else if c' < want then 1 else 0)

/-- One step of every ring of an end: the codes and the bounds that have acted; room is what 40 mW leave. -/
def stepCodes (locked : Nat → Bool) (delta : Nat → Int) : List Nat → Nat → Nat → List (Nat × Nat)
  | [], _, _ => []
  | c :: r, i, room =>
    let x := stepRing (locked i) (delta i) c room
    x :: stepCodes locked delta r (i + 1) (room + c - x.1)

/-- The steps of fibre end k. -/
def stepsOf (tick k : Nat) (f : FibreEnd) : List (Nat × Nat) :=
  stepCodes f.locked.getLsbD (fun i => Config.ringStep tick (17 * k + i)) f.codes 0 (40950 - heatOf f)

/-- Whether a ring's code stands at a limit: 0, 4,095, or where the heater limit clamps it (R349, R358). -/
def ringAtLimit (f : FibreEnd) (ring : Nat) : Bool :=
  let c := nth 0 f.codes ring
  c == 0 || c == 4095 || f.clamped.getLsbD ring

/-- A fibre end after a step of its loops: each ring's photodiode is read, and a locked ring at a limit and more than 3 dB below its
peak stands there, since now where its code has only just come (R349). -/
def stepEnd (tick now k : Nat) (f : FibreEnd) : FibreEnd :=
  let steps := stepsOf tick k f
  let f' : FibreEnd := { f with
    codes := steps.map (·.1)
    clamped := maskOf 17 ((List.range 17).filter fun i => (nth (0, 0) steps i).2 == 2)
    photo := (List.range 17).map fun i => Config.photodiode tick (17 * k + i) }
  { f' with stuck := (List.range 17).map fun i =>
      if f.locked.getLsbD i && ringAtLimit f' i && 30 < nth 0 f'.photo i then
        (if nth 0 f'.codes i == nth 0 f.codes i then nth none f.stuck i else none).or (some now)
      else none }

/-- The clamps of a step, as the details of their records: 256 plus the end for its 40 mW, 1,024 plus 32 times the end plus the ring
for a ring's 4 mW. -/
def clampsOf (tick k : Nat) (f : FibreEnd) : List Nat :=
  let acted := (stepsOf tick k f).map (·.2)
  (if acted.contains 2 then [256 + k] else []) ++ (positions (· == 1) acted).map (1024 + 32 * k + ·)

/-- RING_LOCK_STEP (R348): once in 1 µs every locked ring's loop takes a step, whose size is a free value. Every bound that acts on
one is logged (R358). -/
def execRingLockStep (s : State) : Out :=
  if s.now / 1000 < s.ringStep then .next s
  else
    let clamps := (s.fibres.mapIdx (clampsOf s.tick)).flatten
    let s := { s with ringStep := s.now / 1000 + 1, fibres := s.fibres.mapIdx (stepEnd s.tick s.now) }
    .next (clamps.foldl (fun s k => obsLog s 15 7 k) s)

/-- Whether a ring is saturated: it has stood at its limit for 100 µs (R349). -/
def ringSaturated (now : Nat) (f : FibreEnd) (ring : Nat) : Bool :=
  match nth none f.stuck ring with | some t => t + 100000 ≤ now | none => false

/-- Marks one end's spare as used by both links of its fibre. -/
def markSpare (s : State) (fe : Nat) : State :=
  let mark (l : Link) : Link := if fe % 2 == 0 then { l with txspare := true } else { l with rxspare := true }
  modLink (modLink s (fe / 2 * 2) mark) (fe / 2 * 2 + 1) mark

/-- What is left of the active set of link n once the wavelengths of its fibre from i on are excluded. -/
def keptBelow (s : State) (n i : Nat) : BitVec 8 := maskOf 8 ((bitsOf (linkAt s n).active).filter fun k => 8 * (n % 2) + k < i)

/-- Links restripe to exclude wavelengths from i on, whose rings are tuned anew (R350 steps 1 and 2). -/
def excludeFrom (s : State) (fe i : Nat) : State :=
  let a := fe / 2 * 2
  let s := restripe (restripe s a (keptBelow s a i)) (a + 1) (keptBelow s (a + 1) i)
  { s with fibres := upd s.fibres fe fun f =>
    { f with
      spare := some i, tuning := maskOf 16 ((List.range 16).filter (i ≤ ·))
      codes := f.codes.set i 0, locked := f.locked &&& maskOf 17 (List.range i), clamped := f.clamped &&& maskOf 17 (List.range i)
      stuck := f.stuck.mapIdx fun k t => if i ≤ k then none else t } }

/-- Whether a link could restripe now, if excluding wavelengths from i on changes its active set (R345). -/
def mayExclude (s : State) (n i : Nat) : Bool := (linkAt s n).acked || (linkAt s n).active == keptBelow s n i

/-- Wavelength i is retired: it leaves its link's active set for good; a link left with fewer than two is down (R350). -/
def retireWave (s : State) (fe i : Nat) : State :=
  let n := fe / 2 * 2 + i / 8
  let bit := BitVec.twoPow 8 (i % 8)
  let s := modLink (restripe s n ((linkAt s n).active &&& ~~~bit)) n fun l => { l with retired := l.retired ||| bit }
  let s := { s with fibres := upd s.fibres fe (darken [i]) }
  if (bitsOf (goodSet (linkAt s n))).length < 2 then linkDown s n else s

/-- RING_SATURATION (R349, R350): a saturated ring's wavelength is reassigned by the spare, or retired where the spare is in use,
as soon as the links concerned may restripe; the log records it (R353). -/
def execRingSaturation (fe ring : Nat) (s : State) : Out :=
  let f := nth {} s.fibres fe
  let a := fe / 2 * 2
  let i := ringWave f ring
  if 48 ≤ fe || 17 ≤ ring || (ring == 16 && f.spare.isNone) || !(ringSaturated s.now f ring) || f.spare == some ring then .next s
  else match f.spare with
    | none =>
      if mayExclude s a i && mayExclude s (a + 1) i then .next (excludeFrom (markSpare (obsLog s 15 3 (32 * fe + i)) fe) fe i)
      else .next s
    | some _ =>
      if (linkAt s (a + i / 8)).acked || !((linkAt s (a + i / 8)).active.getLsbD (i % 8)) then
        .next (retireWave (obsLog s 15 3 (32 * fe + i)) fe i)
      else .next s

/-- A wavelength under reassignment locks, at the code that its new ring needs (R350 step 3): its link may take it in again. One that
a parked link does not use stays dark (R347). -/
def ringLock (fe wave : Nat) (s : State) : State :=
  let l := linkAt s (fe / 2 * 2 + wave / 8)
  let dark := l.st == .parked && !((parkSet l).getLsbD (wave % 8))
  if (nth {} s.fibres fe).tuning.getLsbD wave then
    let s := { s with fibres := upd s.fibres fe fun f => { f with tuning := f.tuning &&& ~~~(BitVec.twoPow 16 wave) } }
    if dark then { s with fibres := upd s.fibres fe (darken [wave]) } else lighten [wave] s fe
  else s

/-- The Observatory sets the target of a lock loop (R348). -/
def ringTarget (fe ring v : Nat) (s : State) : State :=
  { s with fibres := upd s.fibres fe fun f => { f with target := f.target.set ring v } }

/-- The Observatory sets the drive of a fibre's lasers, clamped at the fibre's fused limit and at 40 W for the module; a clamp is
logged (R358). -/
def laserDrive (fe mw : Nat) (s : State) : State :=
  let others := (((List.range s.fibres.length).zip s.fibres).filter (·.1 != fe)).foldl (fun n x => n + x.2.drive) 0
  let most := min (Config.laserLimit fe) (40000 - others)
  let s := { s with fibres := upd s.fibres fe fun f => { f with drive := min mw most } }
  if most < mw then obsLog s 15 7 (512 + fe) else s

end Sys2Proof.Machine
end

