-- ==== Sys2Proof/Machine/Module.lean ====
section
/-!
DEFINITION. The Observatory (R351 to R357) and the bring-up of the module (R360).
-/

namespace Sys2Proof.Machine

/-! ## Claimants and responses (R352) -/

/-- Whether the Observatory hears a claimant: in recovery the fabric manager gets no answer (R356), and until the module is
ready the host mailbox answers CLAIM, GAUGE and LOGREAD alone (R360); early tells a command that it answers then. -/
def hears (s : State) (who : Claimant) (early : Bool) : Bool :=
  !(s.obs.recovery && who == .fabric) && (s.isReady || who != .host || early)

/-- A command that the Observatory hears. -/
def command (who : Claimant) (early : Bool) (f : State → State) (s : State) : Out :=
  if hears s who early then .next (f s) else .next s

/-- A command for the owner only: status 1 for any other claimant (R352). -/
def ownerCommand (who : Claimant) (f : State → State) (s : State) : Out :=
  command who false (fun s => if s.obs.owner == some who then f s else respond s who 1 []) s

/-! ## Ownership (R354) -/

/-- CLAIM (R354): while there is no owner it waits, with every other claim of its timestamp, until time has passed it (settleClaims);
a claimant with a standing offer becomes owner, and any other than the owner is answered with status 1. -/
def execClaim (who : Claimant) (s : State) : Out :=
  command who true (fun s =>
    let offered := match s.obs.offer with | some (c, t) => c == who && s.now ≤ t | none => false
    match s.obs.owner with
    | none => modObs s fun o => { o with claims := if o.claims.contains who then o.claims else o.claims ++ [who] }
    | some w =>
      if w == who then respond s who 0 []
      else if offered then respond (elect s who) who 0 []
      else respond s who 1 []) s

/-- RELEASE (R352). -/
def execRelease (who : Claimant) (s : State) : Out :=
  ownerCommand who (fun s =>
    respond (modObs s fun o => { o with owner := none, offer := none }) who 0 []) s

/-- HANDOVER (R354): ownership is offered for 1 s. -/
def execHandover (who : Claimant) (heir : Nat) (s : State) : Out :=
  ownerCommand who (fun s =>
    match claimantOf heir with
    | none => respond s who 2 []
    | some c => respond (modObs s fun o => { o with offer := some (c, s.now + 1000000000) }) who 0 []) s

/-- HANDOVER_EXPIRY (R354). -/
def execHandoverExpiry (s : State) : Out :=
  .next (modObs s fun o => { o with offer := match o.offer with | some (c, t) => if t < s.now then none else some (c, t) | none => none })

/-- OWNERSHIP_LAPSE (R354): the owner's path has failed; that of the management port only 10 s after its last heartbeat. -/
def execOwnershipLapse (s : State) : Out :=
  let late := s.obs.heartbeat + 10000000000 ≤ s.now
  match s.obs.owner with
  | none => .next s
  | some w =>
    if w == .board && !late then .next s
    else .next (modObs s fun o => { o with owner := none, offer := none })

/-- HEARTBEAT (R354). -/
def execHeartbeat (s : State) : Out := .next (modObs s fun o => { o with heartbeat := s.now })

/-! ## Gauges, log, quotes (R352, R353, R357) -/

/-- What gauge n reads (R352): a ring's heater code or photodiode, or a sensor, whose reading is a free value. -/
def gaugeValue (s : State) (n : Nat) : Nat :=
  match Config.gaugeName n with
  | .code fe ring => nth 0 (nth {} s.fibres fe).codes ring
  | .photodiode fe ring => nth 0 (nth {} s.fibres fe).photo ring
  | .sensor => (Config.gauge s.tick n).toNat

/-- GAUGE (R352). -/
def execGauge (who : Claimant) (n : Nat) (s : State) : Out :=
  command who true (fun s => respond s who 0 (leBytes 4 (gaugeValue s n))) s

/-- A log record's 64 bytes, its fields in the order of R353. DESIGN CHOICE (log 45): R353 gives no widths and no places. -/
def logImage (r : LogRec) : List Byte :=
  leBytes 8 r.seq ++ leBytes 4 r.boot ++ leBytes 8 r.time ++ leBytes 4 r.source ++ leBytes 4 r.kind ++ leBytes 8 r.detail
    ++ leBytes 28 0

/-- LOGREAD (R352, R353): the record of a sequence number, where the ring still holds it. -/
def execLogread (who : Claimant) (seq : Nat) (s : State) : Out :=
  command who true (fun s =>
    match s.obs.log.find? (·.seq == seq) with
    | some r => respond s who 0 (logImage r)
    | none => respond s who 2 []) s

/-- The slot that runs. -/
def runningSlot (o : Observatory) : ImageSlot := if o.runningB then o.slotB else o.slotA

/-- What the hash of the running image is taken of: its bytes, with their places in the slot. -/
def imageData (x : ImageSlot) : List Nat := x.bytes.flatMap fun c => [c.1, c.2.toNat]

/-- What the hash of the remap table and the retirement state is taken of: the spares and good cores of the clusters, the retired
wavelengths, the spare rings in use (R295, R350). -/
def retirementData (s : State) : List Nat :=
  (s.clusters.flatMap fun c => c.spares :: c.goodCores) ++ (s.links.map fun l => l.retired.toNat)
    ++ s.fibres.map fun f => match f.spare with | some i => i + 1 | none => 0

/-- The 256 bytes of a quote (R357). DESIGN CHOICE (log 73): SHA-512 and the signature are uninterpreted functions of what they are
taken of. -/
def quoteImage (s : State) (nonce : List Byte) : List Byte :=
  let o := s.obs
  let signed := leBytes 4 0x51544F5A ++ leBytes 4 o.boot ++ nonce ++ leBytes 8 s.now ++ leBytes 4 (runningSlot o).version
    ++ [if o.runningB then 1 else 0, BitVec.ofNat 8 o.fuse, 0, 0]
    ++ ((List.range 64).map fun i => Config.sha512 (imageData (runningSlot o)) i)
    ++ ((List.range 64).map fun i => Config.sha512 (retirementData s) i) ++ leBytes 8 0
  signed ++ (List.range 64).map fun i => Config.signature signed i

/-- QUOTE (R357). -/
def execQuote (who : Claimant) (nonce : List Byte) (s : State) : Out :=
  command who false (fun s => if nonce.length == 32 then respond s who 0 (quoteImage s nonce) else respond s who 2 []) s

/-! ## Images (R356) -/

/-- Changes the inactive slot. -/
def modInactive (o : Observatory) (f : ImageSlot → ImageSlot) : Observatory :=
  if o.activeB then { o with slotA := f o.slotA } else { o with slotB := f o.slotB }

/-- IMGWRITE and ACTIVATE are open to the first claimant in recovery (DESIGN CHOICE, log 75: the first that sends one of
them), where the host mailbox answers them before the module is ready; to the owner otherwise (R352, R356). -/
def imageCommand (who : Claimant) (f : State → State) (s : State) : Out :=
  command who s.obs.recovery (fun s =>
    let o := s.obs
    if o.recovery then
      match o.recoverer with
      | none => f (modObs s fun o => { o with recoverer := some who })
      | some w => if w == who then f s else respond s who 1 []
    else if o.owner == some who then f s else respond s who 1 []) s

/-- IMGWRITE (R352): 32 bytes of the inactive slot; the image carries its version, and the log keeps its update (R353). -/
def execImgwrite (who : Claimant) (off : Nat) (bytes : List Byte) (s : State) : Out :=
  imageCommand who (fun s =>
    if bytes.length != 32 then respond s who 2 []
    else
      let s := modObs s fun o => modInactive o fun x =>
        let b := memWrite x.bytes off bytes
        { bytes := b, version := (Config.imageVersion b).toNat }
      respond (obsLog s (sourceOf who) 6 3) who 0 []) s

/-- ACTIVATE (R356): the inactive slot is marked for trial. -/
def execActivate (who : Claimant) (s : State) : Out :=
  imageCommand who (fun s => respond (obsLog (modObs s fun o => { o with marked := true }) (sourceOf who) 6 0) who 0 []) s

/-- Whether an image qualifies: its signature holds and its version is at least the fuse count (R356). -/
def qualifies (s : State) (b : Bool) : Bool :=
  let x := if b then s.obs.slotB else s.obs.slotA
  Config.signatureHolds x.bytes && decide (s.obs.fuse ≤ x.version)

/-- The private memory that an image is copied into, and the quad that runs it from slot 0 of its first line in supervisor mode. DESIGN
CHOICE (log 72): R351 places the memory and says nothing of what loads it. -/
def bootQuad (o : Observatory) : Observatory :=
  let lanes : List Lane := List.replicate 4 {}
  let sp : Split := { valid := true, qmask := 1, pc := entryPc 0, act := 15 }
  { o with
    priv := (runningSlot o).bytes.filter (·.1 < 2 ^ 18)
    cpu := { super := true, quads := [{ alloc := 256, lanes := lanes }], splits := sp :: List.replicate 8 {} }
    unit := { wgsz := 4, groups := [0] } }

/-- The boot ROM tries the slots in order and boots the first that qualifies; with none the module is in recovery. A slot
other than the active one boots in trial. -/
def bootSlots (s : State) (order : List Bool) : State :=
  let s := modObs s fun o => { o with marked := false, recoverer := none }
  match order.find? (qualifies s) with
  | none => modObs s fun o => { o with recovery := true, trial := none, cpu := {} }
  | some b => modObs s fun o =>
      bootQuad { o with recovery := false, runningB := b, trial := if b == o.activeB then none else some s.now }

/-- The order of R356: a slot marked for trial, then the active one, then the other. -/
def bootOrder (o : Observatory) : List Bool :=
  if o.marked then [!o.activeB, o.activeB] else [o.activeB, !o.activeB]

/-- Optical links train; one that cannot lock two wavelengths is down (R360 step 5). -/
def trainLink (l : Link) : Link :=
  let l : Link := { retired := l.retired, rxspare := l.rxspare, txspare := l.txspare }
  if (bitsOf (goodSet l)).length < 2 then { l with st := .down } else { l with st := .full, active := goodSet l }

/-- The rings of a fibre end lock on the wavelengths that its links have not retired (R360 step 5). -/
def trainEnd (s : State) (k : Nat) : State :=
  let a := k / 2 * 2
  let s := { s with fibres := upd s.fibres k fun f => { spare := f.spare, locked := 0, lit := 0 } }
  lighten (fibreWaves a (goodSet (linkAt s a)) ++ fibreWaves (a + 1) (goodSet (linkAt s (a + 1)))) s k

/-- Steps 3 to 5 of R360, once an image runs: memory is written zero, the core rails rise at A5, the scan of every physical core
begins, the spares' among them, the links train. -/
def bringUp (s : State) : State :=
  let core (k : Nat) : Core := { scanning := nth 255 (clusterAt s (k / 8)).goodCores (k % 8) != 255 }
  let s := { s with
    hbm := [], cap := [], poison := [], poisonCap := [], rails := List.replicate 4 { aper := 5 }, cores := (List.range 96).map core
    clusters := s.clusters.map fun x => { x with spareScan := x.spares != 0 }, links := s.links.map trainLink }
  (List.range 48).foldl trainEnd s

/-- What recovery leaves of a module that ran (R356): no cluster is powered, and the module is not ready. DESIGN CHOICE (log 75): what
is not powered holds its reset state; HBM and the capacity tier keep their bytes until the module comes up again. -/
def unpowered (s : State) : State :=
  { powerCut s with hbm := s.hbm, cap := s.cap, poison := s.poison, poisonCap := s.poisonCap, off := s.off, rails := List.replicate 4 {} }

/-- A start of the Observatory (R356), which leaves the clusters running; without an image the module goes into recovery, and out of it
the module goes on with its bring-up, unless the power is cut. -/
def restarted (s : State) (order : List Bool) : State :=
  let s' := bootSlots s order
  if s'.obs.recovery then unpowered s'
  else if s.obs.recovery && !s.isReady && !s.off then bringUp s'
  else s'

/-- OBSERVATORY_BOOT (R356). -/
def execObservatoryBoot (s : State) : Out := .next (restarted s (bootOrder s.obs))

/-- TRIAL_EXPIRY (R356): 60 s without confirmation. -/
def execTrialExpiry (s : State) : Out :=
  match s.obs.trial with
  | none => .next s
  | some t =>
    if s.now < t + 60000000000 then .next s
    else .next (obsLog (restarted s [!s.obs.runningB, s.obs.runningB]) 15 6 1)

/-- IMAGE_CONFIRM (R356): the image in trial becomes active, and may raise the fuse count. -/
def execImageConfirm (s : State) : Out :=
  match s.obs.trial with
  | none => .next s
  | some _ =>
    let v := (runningSlot s.obs).version
    .next (obsLog (modObs s fun o =>
      { o with activeB := o.runningB, trial := none, fuse := if o.fuse < v && v ≤ 64 then v else o.fuse }) 15 6 2)

/-! ## Power, clamps, rail bounds (R338, R340, R352) -/

/-- POWERCAP (R340, R358): 1,000 to 3,600 W. -/
def execPowercap (who : Claimant) (watts : Nat) (s : State) : Out :=
  ownerCommand who (fun s =>
    if watts < 1000 then respond s who 2 []
    else if 3600 < watts then respond (obsLog s 15 7 768) who 2 []  -- the bound acts
    else respond (modObs s fun o => { o with cap := watts }) who 0 []) s

/-- CLAMP (R352): the named clusters are clamped at an aperture's clock, or released with 0. -/
def execClamp (who : Claimant) (mask : BitVec 12) (aper : Nat) (s : State) : Out :=
  ownerCommand who (fun s =>
    if 8 ≤ aper then respond s who 2 []
    else respond (modClusters s (bitsOf mask) fun x => { x with clamp := aper }) who 0 []) s

/-- RAILBOUND (R338, R294): the aperture that the hypervisor may set a rail to, 0 for any, and each partition's current. -/
def execRailbound (who : Claimant) (rail aper : Nat) (amps : List Nat) (s : State) : Out :=
  ownerCommand who (fun s =>
    if rail == 0 || 4 < rail || 8 ≤ aper || amps.any (4095 < ·) then respond s who 2 []
    else respond { s with rails := upd s.rails (rail - 1) fun r => { r with boundAper := aper, boundAmps := amps } } who 0 []) s

/-! ## Bring-up (R360) -/

/-- MODULE_RESET (R360): everything is cleared but the fuses, the log, the image slots and the persistent state; the
Observatory boots, memory is zero, the core rails rise at A5, every core's scan begins, the links train; the module is ready once the
scans are done (SCAN_COMPLETION). With no image the module stays in recovery with no cluster powered (R356). -/
def execModuleReset (s : State) : Out :=
  let o := s.obs
  let kept : Observatory :=
    { boot := o.boot + 1, log := o.log, logSeq := o.logSeq, slotA := o.slotA, slotB := o.slotB, activeB := o.activeB
      marked := o.marked, fuse := o.fuse }
  let s := { powerCut s with obs := kept, now := 0, parts := List.replicate 12 {} }
  let s := bootSlots s (bootOrder s.obs)
  let s := { s with off := false, isReady := false, rails := List.replicate 4 { aper := 0 } }
  .next (if s.obs.recovery then s else bringUp s)

/-! ## Requests (R352) -/

/-- A request of 64 bytes (R352): the host's come through its mailbox at 0x3000 in the module configuration function. DESIGN CHOICE
(log 72): but for HANDOVER's claimant in byte 1, the operands of a command stand from byte 8 on, each in the width of its value. -/
def obsRequest (who : Claimant) (b : List Byte) (s : State) : State :=
  let f (o n : Nat) : Nat := leNat ((b.drop o).take n)
  if b.length != 64 then s
  else if Config.obsBusy s.tick then (if hears s who false then respond s who 3 [] else s)
  else afterEvent s (match f 0 1 with
    | 0x01 => execClaim who s
    | 0x02 => execRelease who s
    | 0x03 => execHandover who (f 1 1) s
    | 0x10 => execGauge who (f 8 4) s
    | 0x11 => command who true (fun s =>
        modObs (afterEvent s (execLogread who (f 8 8) s)) fun o => { o with logNext := upd o.logNext (sourceOf who) fun _ => f 8 8 + 1 }) s
    | 0x20 => execQuote who ((b.drop 8).take 32) s
    | 0x30 => execImgwrite who (f 8 8) ((b.drop 16).take 32) s
    | 0x31 => execActivate who s
    | 0x40 => execPowercap who (f 8 4) s
    | 0x41 => execClamp who (BitVec.ofNat 12 (f 8 2)) (f 10 1) s
    | 0x42 => execRailbound who (f 8 1) (f 9 1) ((List.range 12).map fun i => f (10 + 2 * i) 2) s
    | _ => command who false (fun s => respond s who 2 []) s)

/-- The log records that follow the one a claimant's LOGREAD named, one in each response (R352). -/
def logMore (who : Claimant) (s : State) : State :=
  let n := nth 0 s.obs.logNext (sourceOf who)
  match s.obs.log.find? (·.seq == n) with
  | none => s
  | some r => modObs (respond s who 0 (logImage r)) fun o => { o with logNext := upd o.logNext (sourceOf who) fun _ => n + 1 }

end Sys2Proof.Machine
end

