-- ==== Sys2Proof/Machine/Sync.lean ====
section
/-!
DEFINITION. Barriers (R178 to R180), WAITA (R181), the queues of a gang (R182 to R184).
-/

namespace Sys2Proof.Machine

/-! ## Barriers (R161, R178, R180) -/

/-- Whether a quad of a set holds a lane that is deferred or held by a break. -/
def heldQuads (gr : Group) (m : QuadMask) : Bool :=
  gr.regions.any fun r => ((r.defer ||| r.blanes) &&& lanesOfQuads m) != 0

/-- The release of a synchronising instruction for every lane of the group (R161): every load has taken its value, every
store has left the queue and every atomic is performed; none while that is not so. -/
def releaseGroup (s : State) (g : Nat) : Option State :=
  if groupSeen s g then captureAll s g else none

/-- A split arrives at a barrier: one arrival for each of its quads with an active lane that is not a helper. -/
def Env.arrive (v : Env) (s : State) (gang : Bool) (seq : Nat) : List Arrival × State :=
  let real (k : Nat) : Bool := v.act.any fun l => l / 4 == k && !(laneAt v.gr l).helper
  let w := wgOf s v.g
  let as := (v.quads.filter real).map fun k =>
    { group := v.g, entry := v.e, q := (quadAt v.gr k).q, mask := sPair v.gr k v.a, pos := w.pos : Arrival }
  (as, modGroup s v.g fun gr => modSplit gr v.e fun sp =>
    { sp with st := .atBar, park := some (.bar gang seq), count := 0, overdue := false })

/-- What BAR and GBAR do before they arrive: go arrives. -/
def Env.barrier (v : Env) (go : State → State) : Eff :=
  if v.e == 8 then v.allFault 5 v.pc
  else if v.act.all fun l => (laneAt v.gr l).helper then { s := v.s }
  else if heldQuads v.gr v.sp.qmask then { v.allFault 8 v.pc with flow := .placed true }
  else match releaseGroup v.s v.g with
    | none => { s := v.s, flow := .yield }
    | some s => { s := go s, flow := .placed true }

/-- BAR (R178). -/
def barFx (v : Env) : Eff :=
  v.barrier fun s =>
    let w := v.gr.wg
    let (as, s) := v.arrive s false (wgAt s w).bar.seq
    checkBar (modWg s w fun x => { x with bar := { x.bar with arrivals := x.bar.arrivals ++ as } }) w
def execBar (d a b : Byte) (s : State) : Out := issue1 0xA0 d a b barFx s

/-- GBAR (R180). -/
def gbarFx (v : Env) : Eff :=
  v.barrier fun s =>
    let k := (wgOf s v.g).gang
    let (as, s) := v.arrive s true (gangAt s k).gbar.seq
    checkGbar (modGang s k fun x => { x with gbar := { x.gbar with arrivals := x.gbar.arrivals ++ as } }) k
def execGbar (d a b : Byte) (s : State) : Out := issue1 0xA1 d a b gbarFx s

/-! ## WAITA (R181) -/

/-- The access of a quad's WAITA, made by its lowest active lane and faulted in every active lane of the quad. -/
def waitaAsk (v : Env) (iid k : Nat) : Ask :=
  let act := v.act.filter (· / 4 == k)
  let x := sPair v.gr k v.a
  let pool := x.getLsbD 63
  let low : DWord := zext (loWord x)
  -- a non-zero bit in [62:32] keeps the whole operand, which lies beyond every pool
  { iid := iid, lane := act.headD 0, who := act, va := if pool && hiWord x == 0x80000000 then low else x, size := 4, align := 4
    kind := .read, pool := pool, acq := true, comparand := sGet v.gr k v.b
    slack := slackOf v.s v.g (Table.slkOf (modeOf v.gr k)) }

/-- The reads of words of other devices that some lanes have under way for a WAITA are given up. -/
def dropWatches (s : State) (g : Nat) (lanes : List Nat) : State :=
  if (groupAt s g).reqs.all fun r => !(isWatch r.what) then s
  else modGroup s g fun gr => { gr with reqs := gr.reqs.filter fun r => !(isWatch r.what && lanes.contains r.lane) }

/-- WAITA (R181): the quads whose address faults leave first, and the split then waits for the others. -/
def waitaFx (v : Env) : Eff :=
  let (iid, s) := fresh v.s
  let asks := v.quads.map (waitaAsk v iid)
  match { v with s := s }.begin' asks none (v.sectors asks).length with
  | .held f => f.again
  | .done s w =>
    if !w.faults.isEmpty then
      -- a misaligned pool operand records its pool address (R181)
      let addr (l : Nat) (a : DWord) : DWord :=
        if a.getLsbD 63 && a.toNat % 4 != 0 then zext (loWord (sPair v.gr (l / 4) v.a)) else a
      { s := s, faults := w.taken.map fun x => (x.1, x.2.1, addr x.1 x.2.2), ft := w.ft, resume := .before, flow := .placed true }
    else
      -- reads that an earlier WAITA of its lanes has left behind are none of this one's
      { s := dropWatches s v.g v.act, flow := .hold .atWaita (some (.waita (v.d / 16) w.words)) }
def execWaita (d a b : Byte) (s : State) : Out := issue1 0xA2 d a b waitaFx s

/-- A late reply to the read of a quad's word counts, and where its class reports, the quad's active lanes are marked (R271, R253). -/
def waitaLate (s : State) (g e : Nat) (x : Nat × Loc × Word × DWord) : State :=
  let gr := groupAt s g
  let k := slackOf s g (Table.slkOf (modeOf gr x.1))
  let lanes := (bitsOf (splitAt gr e).act).filter (· / 4 == x.1)
  let s := countLate s gr.wg
  if k.report then modGroup s g fun gr => markLanes gr (maskOf 64 lanes) 12 x.2.2.2 else s

/-- What the reply to the read of a quad's word does. A word of the pool sends no packet. -/
def waitaReply (s : State) (g e : Nat) (x : Nat × Loc × Word × DWord) : State :=
  let gr := groupAt s g
  if ((bitsOf (splitAt gr e).act).all (· / 4 != x.1)) || isPool x.2.1
      || !(lateReply s (slackOf s g (Table.slkOf (modeOf gr x.1))) x.1) then s
  else waitaLate s g e x

/-- The lane to which a split's read of a quad's word belongs. -/
def waitaLane (sp : Split) (k : Nat) : Option Nat := (bitsOf sp.act).find? (· / 4 == k)

/-- The read of a quad's word comes in its lane's program order: the lane's loads have taken their values, and nothing of it keeps
an acquire of the word waiting (R152, R155, R168, R203); none while that is not so. -/
def waitaReady (g e : Nat) : List (Nat × Loc × Word × DWord) → State → Option State
  | [], s => some s
  | x :: rest, s =>
    match waitaLane (splitAt (groupAt s g) e) x.1 with
    | none => waitaReady g e rest s
    | some l =>
      let r : Req := { id := s.nextId, lane := l, acq := true, wide := reachesFar (modeOf (groupAt s g) x.1), what := .mem x.2.1 4 false }
      if loadHeld s g r x.2.1 4 then none else (captureLane s g l s.nextId).bind (waitaReady g e rest)

/-- Whether a quad's word lies at another device, so that its read travels there (R281). -/
def farWord (s : State) (p : Nat) (x : Nat × Loc × Word × DWord) : Bool := startStage s p x.2.1 == .link

/-- A lane's read of a word of another device, as it is under way or has come back. -/
def watchOf (gr : Group) (lane : Nat) (loc : Loc) : Option Req := gr.reqs.find? fun r => r.lane == lane && r.what == .watch loc

/-- A quad's word at another device is asked for, unless it is already, in its lane's order and with its class's slack (R269, R281). -/
def askWord (g e : Nat) (s : State) (x : Nat × Loc × Word × DWord) : State :=
  let gr := groupAt s g
  match (if farWord s gr.part x then waitaLane (splitAt gr e) x.1 else none) with
  | none => s
  | some l =>
    if (watchOf gr l x.2.1).isSome then s
    else
      let (id, s) := fresh s
      let m := modeOf gr x.1
      addReq s g { id := id, iid := id, what := .watch x.2.1, lane := l, va := x.2.2.2, acq := true, wide := reachesFar m
                   slack := slackOf s g (Table.slkOf m), stage := .link, peerInc := peerIncOf s gr.part gr.core x.2.1 x.2.2.2 }

/-- What the read of a quad's word at another device has brought; none where it is not back, or where there is none. -/
def farReply (s : State) (g e : Nat) (x : Nat × Loc × Word × DWord) : Option Req :=
  let gr := groupAt s g
  if farWord s gr.part x then
    ((waitaLane (splitAt gr e) x.1).bind fun l => watchOf gr l x.2.1).filter fun r => r.data.isSome && r.stage == .served
  else none

/-- A WAITA some of whose words were asked of a lost peer takes code 13 in the lanes of their quads (R245). -/
def loseWaita (s : State) (g e : Nat) (items : List (Nat × Loc × Word × DWord)) (lost : Nat × Loc × Word × DWord → Bool) : State :=
  let lanes (x : Nat × Loc × Word × DWord) : List Nat := (bitsOf (splitAt (groupAt s g) e).act).filter (· / 4 == x.1)
  wake (modGroup s g fun gr => modSplit gr e fun sp =>
    { sp with st := .waitBit
              park := some (.walk [{ faults := (items.filter lost).flatMap fun x => sameFault (lanes x) 13 x.2.2.2 }]) }) g

/-- The word that a lane's read for a WAITA gives: of another device, what the read has brought. -/
def waitaWord (s : State) (g e l : Nat) (x : Nat × Loc × Word × DWord) : Word :=
  match farReply s g e x with
  | some r => (r.data.getD []).headD 0
  | none => BitVec.ofNat 32 (leNat (laneBytes s g l s.nextId x.2.1 4))

/-- What the read of a quad's word does, whatever its condition: its line is recalled (R148), what it has met is noted (R157), its
reply may be late (R271). -/
def waitaSeen (g e : Nat) (s : State) (x : Nat × Loc × Word × DWord) : State :=
  let gr := groupAt s g
  match farReply s g e x, waitaLane (splitAt gr e) x.1 with
  | some r, _ => if remaining r.slack s.now == 0 then waitaLate s g e x else s
  | none, some l => waitaReply (noteRead (recalled s (physCluster s gr.part (gr.core / 8)) x.2.1) g l x.2.1 4) g e x
  | none, none => s

/-- The reads of a WAITA's words have come: where every condition holds, the split goes on, and the reads are acquires. -/
def waitaTurn (g e cc : Nat) (items : List (Nat × Loc × Word × DWord)) (s : State) : State :=
  let sp := splitAt (groupAt s g) e
  let holds (x : Nat × Loc × Word × DWord) : Bool :=
    match waitaLane sp x.1 with
    | none => true
    | some l => condSeq cc (waitaWord s g e l x) x.2.2.1
  let note (s : State) (x : Nat × Loc × Word × DWord) : State :=
    match waitaLane sp x.1 with | some l => noteAcquire (noteReplica s g l x.2.1) g | none => s
  let replied := dropWatches (items.foldl (waitaSeen g e) s) g (bitsOf sp.act)
  if items.all holds then completeParked (items.foldl note replied) g e else replied

/-- WAITA_READ (R181): the words are read; where every condition holds, the split goes on, and the read is an acquire. Words of
other devices are asked for first, and read where they lie (R281). -/
def execWaitaRead (g e : Nat) (s : State) : Out :=
  let p := (groupAt s g).part
  let sp := splitAt (groupAt s g) e
  let stands : Bool := !sp.valid || sp.st != .atWaita || sp.halted || coreHalted s p (groupAt s g).core
  match (if stands then none else sp.park) with
  | some (.waita cc items) =>
    let far (x : Nat × Loc × Word × DWord) : Bool := farWord s p x && (waitaLane sp x.1).isSome
    let s := items.foldl (askWord g e) s
    let lost (x : Nat × Loc × Word × DWord) : Bool := (farReply s g e x).any (·.mark == 13)
    if items.any fun x => far x && (farReply s g e x).isNone then .next s
    else if items.any lost then .next (loseWaita (dropWatches s g (bitsOf sp.act)) g e items lost)
    else match waitaReady g e (items.filter fun x => !(far x)) s with
      | none => .next s
      | some s => .next (waitaTurn g e cc items s)
  | _ => .next s

/-! ## Queues (R182 to R184) -/

/-- Queue n of a gang. -/
def queueAt (s : State) (k n : Nat) : Queue := nth {} (gangAt s k).queues n
def modQueue (s : State) (k n : Nat) (f : Queue → Queue) : State :=
  modGang s k fun x => { x with queues := upd x.queues n f }

/-- A split that is still parked at a queue. -/
def stillPops (s : State) (n : Nat) (ge : Nat × Nat) : Bool :=
  let sp := splitAt (groupAt s ge.1) ge.2
  groupCounts (groupAt s ge.1) && sp.valid && (match sp.park with | some (.pop m _ _) => m == n | _ => false)
def stillPushes (s : State) (n : Nat) (ge : Nat × Nat) : Bool :=
  let sp := splitAt (groupAt s ge.1) ge.2
  groupCounts (groupAt s ge.1) && sp.valid && (match sp.park with | some (.push m _ _) => m == n | _ => false)

/-- QDEF (R182). DESIGN CHOICE (log 61): its own code 5 comes after the checks 6 to 8 of R35. -/
def qdefFx (v : Env) : Eff :=
  let k := (wgOf v.s v.g).gang
  let r (i : Nat) : Nat := (sGet v.gr v.q0 (v.a + i)).toNat
  let (base, size, slots, allow) := (r 0, r 1, r 2, r 3)
  let q := queueAt v.s k v.d
  let same := q.defined && q.base == base && q.slotsz == size && q.slots == slots && q.allow == allow
  if !(size == 4 || size == 8) || base % size != 0 || slots == 0 || 256 < slots || allow == 0 || slots < allow
      || poolEnd v.s v.g < base + slots * size then v.allFault 5 v.pc
  else if same then { s := v.s }
  else if q.defined && (q.count != 0 || q.pushers.any (stillPushes v.s v.d) || q.poppers.any (stillPops v.s v.d)) then
    v.allFault 5 v.pc
  else { s := modQueue v.s k v.d fun _ =>
    { defined := true, base := base, slotsz := size, slots := slots, allow := allow, allowance := allow } }
def execQdef (d a b : Byte) (s : State) : Out := issue1 0xA3 d a b qdefFx s

/-- A value enters a queue that has an allowance left. -/
def enqueue (s : State) (k n : Nat) (x : DWord) : State :=
  let q := queueAt s k n
  let l : Loc := ⟨.pool k, q.base + q.slotsz * q.tail⟩
  let s := clearPoison (pokeBytes s l (leBytes q.slotsz x.toNat)) l q.slotsz
  modQueue s k n fun q => { q with allowance := q.allowance - 1, tail := (q.tail + 1) % q.slots, count := q.count + 1 }

/-- The loads of some lanes of a group have taken their values, and nothing of them keeps a later load of the pool waiting: an
acquiring or pool atomic, a walk, a tile (R152 to R156, R192, R203); none while that is not so. -/
def laneSettled (g : Nat) : List Nat → State → Option State
  | [], s => some s
  | l :: rest, s =>
    if (unperformed s g).any (fun w => w.lane == l && !isStore w.op && (w.acq || isPool w.loc))
        || (walksDue s g).any (·.lane == l) || (tilesDue s g).any (·.reader == l) then none
    else (captureLane s g l s.nextId).bind (laneSettled g rest)

/-- The oldest value leaves a queue that holds one: its words and whether it was poisoned, as lane l of group g sees its slot
(R154, R183). -/
def dequeue (s : State) (k n g l : Nat) : List Word × Bool × State :=
  let q := queueAt s k n
  let loc : Loc := ⟨.pool k, q.base + q.slotsz * q.head⟩
  (wordsOf q.slotsz (leNat (laneBytes s g l s.nextId loc q.slotsz)), lanePoisoned s g l s.nextId loc q.slotsz,
    modQueue s k n fun q => { q with head := (q.head + 1) % q.slots, count := q.count - 1, allowance := q.allowance + 1 })

/-- Writes a popped value to s[D] of each quad of a split with an active lane. -/
def popInto (gr : Group) (e d : Nat) (ws : List Word) (poisoned : Bool) : Group :=
  deliver' gr { file := .seq, lanes := (splitAt gr e).act, base := d, regs := ws.length, poisoned := poisoned } ws

/-- The pool address of a slot of a queue. -/
def slotVa (q : Queue) (i : Nat) : DWord := BitVec.ofNat 64 (q.base + q.slotsz * i)

/-- The reply to a queue operation of a split reaches it (R269, R271): a late one counts, and that of a POP, which the split
awaits, marks its lanes where class 0 reports. va is the slot's pool address. -/
def queueReply (s : State) (g e : Nat) (k : Slack) (awaited : Bool) (va : DWord) : State :=
  if !(lateReply s k 0) then s
  else
    let s := countLate s (groupAt s g).wg
    if awaited && k.report then
      modGroup s g fun gr => markLanes gr (splitAt gr e).act 12 va
    else s

/-- The reply to a PUSHN or POPN of some lanes: the status x for predicate p and, where one was popped, the value for s[d]
(R184). It returns as a result of class 0. -/
def queueStatus (s : State) (g : Nat) (lanes : LaneMask) (p : Nat) (x : Bool) (d : Nat) (ws : List Word) (bad : Bool)
    (va : DWord) : State :=
  let (iid, s) := fresh s
  let r : Req := { iid := iid, what := .queued, lane := (bitsOf lanes).headD 0, lanes := lanes, va := va, slack := slackOf s g 0 }
  let s := addReq s g { r with id := iid, file := .prd, base := p, regs := 1, data := some [if x then 1 else 0] }
  if ws.isEmpty then s
  else
    let (id, s) := fresh s
    addReq s g { r with id := id, file := .seq, base := d, regs := ws.length, data := some ws, poisoned := bad }

/-- One service of a queue: its oldest popper takes a value, or its oldest pusher pushes; none where neither can. -/
def serveOnce (s : State) (k n : Nat) : Option State :=
  let q := queueAt s k n
  match q.poppers.filter (stillPops s n), q.pushers.filter (stillPushes s n) with
  | p :: rest, _ =>
    if q.count != 0 then
      let (d, sl) := match (splitAt (groupAt s p.1) p.2).park with | some (.pop _ d sl) => (d, sl) | _ => (0, {})
      let (ws, bad, s) := dequeue s k n p.1 ((bitsOf (splitAt (groupAt s p.1) p.2).act).headD 0)
      let s := queueReply (modGroup s p.1 fun gr => popInto gr p.2 d ws bad) p.1 p.2 sl true (slotVa q q.head)
      some (completeParked (noteAcquire (modQueue s k n fun q => { q with poppers := rest }) p.1) p.1 p.2)
    else push' q (q.pushers.filter (stillPushes s n))
  | [], ps => push' q ps
where
  /-- The oldest pusher pushes. -/
  push' (q : Queue) (ps : List (Nat × Nat)) : Option State :=
    match ps with
    | [] => none
    | p :: rest =>
      if q.allowance == 0 then none
      else
        let (x, sl) := match (splitAt (groupAt s p.1) p.2).park with | some (.push _ x sl) => (x, sl) | _ => (0, {})
        let s := queueReply (modQueue (enqueue s k n x) k n fun q => { q with pushers := rest }) p.1 p.2 sl false (slotVa q q.tail)
        some (completeParked s p.1 p.2)

/-- Serves a queue until nothing more can move. -/
def serveQueue (k n : Nat) : Nat → State → State
  | 0, s => s
  | fuel + 1, s => match serveOnce s k n with
    | none => s
    | some s' => serveQueue k n fuel s'

/-- Rounds enough for every parked split of a queue. -/
def servedQueue (s : State) (k n : Nat) : State :=
  let q := queueAt s k n
  serveQueue k n (2 * (q.pushers.length + q.poppers.length) + 1) s

/-- Whether every active lane of the split is a helper lane. -/
def Env.allHelpers (v : Env) : Bool := v.act.all fun l => (laneAt v.gr l).helper

/-- The release of a push: its lane's loads have taken their values, those of its walks and of the tiles that it reads for the
engine among them (R192, R203), the group's stores have left their queue and its atomics are performed. -/
def Env.releasedLane (v : Env) : Option State :=
  let l := v.act.headD 0
  if groupSeen v.s v.g && (walksDue v.s v.g).all (·.lane != l) && (tilesDue v.s v.g).all (·.reader != l) then
    captureLane v.s v.g l v.s.nextId
  else none

/-- The value that a push presents. -/
def pushValue (v : Env) (r : Nat) (q : Queue) : DWord :=
  if q.slotsz == 8 then sPair v.gr v.q0 r else zext (sGet v.gr v.q0 r)

/-- PUSH (R183). -/
def pushFx (v : Env) : Eff :=
  let k := (wgOf v.s v.g).gang
  let q := queueAt v.s k v.d
  if v.allHelpers then { s := v.s }
  else match v.releasedLane with
    | none => { s := v.s, flow := .yield }
    | some s =>
      if q.allowance == 0 || !(q.pushers.filter (stillPushes v.s v.d)).isEmpty then
        { s := modQueue s k v.d fun q => { q with pushers := q.pushers ++ [(v.g, v.e)] }
          flow := .hold .atQueue (some (.push v.d (pushValue v v.a q) (slackOf v.s v.g 0))) }
      else { s := servedQueue (queueReply (enqueue s k v.d (pushValue v v.a q)) v.g v.e (slackOf s v.g 0) false (slotVa q q.tail)) k v.d }
def execPush (d a b : Byte) (s : State) : Out := issue1 0xA4 d a b pushFx s

/-- POP (R183): its slot is read, and it parks, with the earlier loads of its lanes done. -/
def popFx (v : Env) : Eff :=
  let k := (wgOf v.s v.g).gang
  let q := queueAt v.s k v.a
  if v.allHelpers then { s := v.s, flow := .endRun }
  else match laneSettled v.g v.act v.s with
  | none => { s := v.s, flow := .yield }
  | some s =>
  if q.count != 0 && (q.poppers.filter (stillPops v.s v.a)).isEmpty then
    let (ws, bad, s) := dequeue s k v.a v.g (v.act.headD 0)
    let s := queueReply (modGroup (noteAcquire s v.g) v.g fun gr => popInto gr v.e v.d ws bad) v.g v.e (slackOf s v.g 0) true (slotVa q q.head)
    { s := servedQueue s k v.a, flow := .endRun }
  else
    { s := modQueue s k v.a fun q => { q with poppers := q.poppers ++ [(v.g, v.e)] }
      flow := .hold .atQueue (some (.pop v.a v.d (slackOf v.s v.g 0))) }
def execPop (d a b : Byte) (s : State) : Out := issue1 0xA5 d a b popFx s

/-- PUSHN (R184). -/
def pushnFx (v : Env) : Eff :=
  let k := (wgOf v.s v.g).gang
  let q := queueAt v.s k v.b
  let m := maskOf 64 v.act
  if v.allHelpers || q.allowance == 0 || !(q.pushers.filter (stillPushes v.s v.b)).isEmpty then
    { s := queueStatus v.s v.g m (v.d % 16) false 0 [] false (slotVa q q.tail) }
  else match v.releasedLane with
    | none => { s := v.s, flow := .yield }
    | some s =>
      { s := queueStatus (servedQueue (enqueue s k v.b (pushValue v v.a q)) k v.b) v.g m (v.d % 16) true 0 [] false (slotVa q q.tail) }
def execPushn (d a b : Byte) (s : State) : Out := issue1 0xA6 d a b pushnFx s

/-- POPN (R184). DESIGN CHOICE (log 61): R184 has the status pending, and s[D] where a value comes; a POPN that finds the queue
empty, or is suppressed, keeps s[D] free. -/
def popnFx (v : Env) : Eff :=
  let k := (wgOf v.s v.g).gang
  let q := queueAt v.s k v.a
  let m := maskOf 64 v.act
  if v.allHelpers || q.count == 0 || !(q.poppers.filter (stillPops v.s v.a)).isEmpty then
    { s := queueStatus v.s v.g m (v.b % 16) false 0 [] false (slotVa q q.head) }
  else match laneSettled v.g v.act v.s with
  | none => { s := v.s, flow := .yield }
  | some s =>
    let (ws, bad, s) := dequeue s k v.a v.g (v.act.headD 0)
    { s := queueStatus (servedQueue (noteAcquire s v.g) k v.a) v.g m (v.b % 16) true v.d ws bad (slotVa q q.head) }
def execPopn (d a b : Byte) (s : State) : Out := issue1 0xA7 d a b popnFx s

end Sys2Proof.Machine
end

