-- ==== Sys2Proof/Machine/Dispatch.lean ====
section
/-! DEFINITION. One arm per constructor of Instr: the meaning of every step, in the order of the opcode table. -/

namespace Sys2Proof.Machine

/-- The meaning of an instruction or event. -/
def exec (i : Instr) (s : State) : Host.Outcome State Fault Refusal :=
  match i with
  | .nop d a b => Sys2Proof.Machine.execNop d a b s
  | .bra d a b l => Sys2Proof.Machine.execBra d a b l s
  | .brs d a b l => Sys2Proof.Machine.execBrs d a b l s
  | .brd d a b l => Sys2Proof.Machine.execBrd d a b l s
  | .join d a b => Sys2Proof.Machine.execJoin d a b s
  | .brk d a b l => Sys2Proof.Machine.execBrk d a b l s
  | .jt d a b => Sys2Proof.Machine.execJt d a b s
  | .call d a b l => Sys2Proof.Machine.execCall d a b l s
  | .calli d a b => Sys2Proof.Machine.execCalli d a b s
  | .ret d a b => Sys2Proof.Machine.execRet d a b s
  | .exit d a b => Sys2Proof.Machine.execExit d a b s
  | .demote d a b => Sys2Proof.Machine.execDemote d a b s
  | .apt d a b => Sys2Proof.Machine.execApt d a b s
  | .rgrow d a b => Sys2Proof.Machine.execRgrow d a b s
  | .rshrk d a b => Sys2Proof.Machine.execRshrk d a b s
  | .idem d a b => Sys2Proof.Machine.execIdem d a b s
  | .mode d a b => Sys2Proof.Machine.execMode d a b s
  | .modx d a b => Sys2Proof.Machine.execModx d a b s
  | .grd d a b => Sys2Proof.Machine.execGrd d a b s
  | .trap d a b => Sys2Proof.Machine.execTrap d a b s
  | .rett d a b => Sys2Proof.Machine.execRett d a b s
  | .gets d a b => Sys2Proof.Machine.execGets d a b s
  | .sets d a b => Sys2Proof.Machine.execSets d a b s
  | .launch d a b => Sys2Proof.Machine.execLaunch d a b s
  | .tlbi d a b => Sys2Proof.Machine.execTlbi d a b s
  | .add d a b => Sys2Proof.Machine.execAdd d a b s
  | .sub d a b => Sys2Proof.Machine.execSub d a b s
  | .mul d a b => Sys2Proof.Machine.execMul d a b s
  | .mulh d a b => Sys2Proof.Machine.execMulh d a b s
  | .mad d a b => Sys2Proof.Machine.execMad d a b s
  | .min d a b => Sys2Proof.Machine.execMin d a b s
  | .max d a b => Sys2Proof.Machine.execMax d a b s
  | .and d a b => Sys2Proof.Machine.execAnd d a b s
  | .or d a b => Sys2Proof.Machine.execOr d a b s
  | .xor d a b => Sys2Proof.Machine.execXor d a b s
  | .andn d a b => Sys2Proof.Machine.execAndn d a b s
  | .shl d a b => Sys2Proof.Machine.execShl d a b s
  | .shr d a b => Sys2Proof.Machine.execShr d a b s
  | .sar d a b => Sys2Proof.Machine.execSar d a b s
  | .bfe d a b => Sys2Proof.Machine.execBfe d a b s
  | .bfi d a b => Sys2Proof.Machine.execBfi d a b s
  | .popc d a b => Sys2Proof.Machine.execPopc d a b s
  | .clz d a b => Sys2Proof.Machine.execClz d a b s
  | .brev d a b => Sys2Proof.Machine.execBrev d a b s
  | .sel d a b => Sys2Proof.Machine.execSel d a b s
  | .cmp d a b => Sys2Proof.Machine.execCmp d a b s
  | .addi d a b => Sys2Proof.Machine.execAddi d a b s
  | .shli d a b => Sys2Proof.Machine.execShli d a b s
  | .shri d a b => Sys2Proof.Machine.execShri d a b s
  | .sari d a b => Sys2Proof.Machine.execSari d a b s
  | .mov d a b => Sys2Proof.Machine.execMov d a b s
  | .movi d a b => Sys2Proof.Machine.execMovi d a b s
  | .movh d a b => Sys2Proof.Machine.execMovh d a b s
  | .lit d a b l => Sys2Proof.Machine.execLit d a b l s
  | .lea d a b => Sys2Proof.Machine.execLea d a b s
  | .addx d a b => Sys2Proof.Machine.execAddx d a b s
  | .fadd d a b => Sys2Proof.Machine.execFadd d a b s
  | .fsub d a b => Sys2Proof.Machine.execFsub d a b s
  | .fmul d a b => Sys2Proof.Machine.execFmul d a b s
  | .fma d a b => Sys2Proof.Machine.execFma d a b s
  | .fnma d a b => Sys2Proof.Machine.execFnma d a b s
  | .fmin d a b => Sys2Proof.Machine.execFmin d a b s
  | .fmax d a b => Sys2Proof.Machine.execFmax d a b s
  | .fcmp d a b => Sys2Proof.Machine.execFcmp d a b s
  | .rsq d a b => Sys2Proof.Machine.execRsq d a b s
  | .rcp d a b => Sys2Proof.Machine.execRcp d a b s
  | .ex2 d a b => Sys2Proof.Machine.execEx2 d a b s
  | .lg2 d a b => Sys2Proof.Machine.execLg2 d a b s
  | .frnd d a b => Sys2Proof.Machine.execFrnd d a b s
  | .fcls d a b => Sys2Proof.Machine.execFcls d a b s
  | .cvt d a b => Sys2Proof.Machine.execCvt d a b s
  | .cvtn d a b => Sys2Proof.Machine.execCvtn d a b s
  | .cvtw d a b => Sys2Proof.Machine.execCvtw d a b s
  | .twos d a b => Sys2Proof.Machine.execTwos d a b s
  | .sadd d a b => Sys2Proof.Machine.execSadd d a b s
  | .ssub d a b => Sys2Proof.Machine.execSsub d a b s
  | .smul d a b => Sys2Proof.Machine.execSmul d a b s
  | .sand d a b => Sys2Proof.Machine.execSand d a b s
  | .sor d a b => Sys2Proof.Machine.execSor d a b s
  | .sxor d a b => Sys2Proof.Machine.execSxor d a b s
  | .sshl d a b => Sys2Proof.Machine.execSshl d a b s
  | .sshr d a b => Sys2Proof.Machine.execSshr d a b s
  | .scmp d a b => Sys2Proof.Machine.execScmp d a b s
  | .smov d a b => Sys2Proof.Machine.execSmov d a b s
  | .smovi d a b => Sys2Proof.Machine.execSmovi d a b s
  | .slit d a b l => Sys2Proof.Machine.execSlit d a b l s
  | .saddx d a b => Sys2Proof.Machine.execSaddx d a b s
  | .sld d a b => Sys2Proof.Machine.execSld d a b s
  | .sst d a b => Sys2Proof.Machine.execSst d a b s
  | .bcast d a b => Sys2Proof.Machine.execBcast d a b s
  | .rdln d a b => Sys2Proof.Machine.execRdln d a b s
  | .qswz d a b => Sys2Proof.Machine.execQswz d a b s
  | .shfl d a b => Sys2Proof.Machine.execShfl d a b s
  | .shfx d a b => Sys2Proof.Machine.execShfx d a b s
  | .shup d a b => Sys2Proof.Machine.execShup d a b s
  | .vote d a b => Sys2Proof.Machine.execVote d a b s
  | .vtst d a b => Sys2Proof.Machine.execVtst d a b s
  | .ld d a b => Sys2Proof.Machine.execLd d a b s
  | .ldx d a b => Sys2Proof.Machine.execLdx d a b s
  | .st d a b => Sys2Proof.Machine.execSt d a b s
  | .stx d a b => Sys2Proof.Machine.execStx d a b s
  | .ldp d a b => Sys2Proof.Machine.execLdp d a b s
  | .stp d a b => Sys2Proof.Machine.execStp d a b s
  | .ldv d a b => Sys2Proof.Machine.execLdv d a b s
  | .pref d a b => Sys2Proof.Machine.execPref d a b s
  | .fence d a b => Sys2Proof.Machine.execFence d a b s
  | .aadd d a b => Sys2Proof.Machine.execAadd d a b s
  | .amin d a b => Sys2Proof.Machine.execAmin d a b s
  | .amax d a b => Sys2Proof.Machine.execAmax d a b s
  | .aand d a b => Sys2Proof.Machine.execAand d a b s
  | .aor d a b => Sys2Proof.Machine.execAor d a b s
  | .axor d a b => Sys2Proof.Machine.execAxor d a b s
  | .axch d a b => Sys2Proof.Machine.execAxch d a b s
  | .acas d a b => Sys2Proof.Machine.execAcas d a b s
  | .afadd d a b => Sys2Proof.Machine.execAfadd d a b s
  | .redc d a b => Sys2Proof.Machine.execRedc d a b s
  | .cprd d a b => Sys2Proof.Machine.execCprd d a b s
  | .redx d a b => Sys2Proof.Machine.execRedx d a b s
  | .bar d a b => Sys2Proof.Machine.execBar d a b s
  | .gbar d a b => Sys2Proof.Machine.execGbar d a b s
  | .waita d a b => Sys2Proof.Machine.execWaita d a b s
  | .qdef d a b => Sys2Proof.Machine.execQdef d a b s
  | .push d a b => Sys2Proof.Machine.execPush d a b s
  | .pop d a b => Sys2Proof.Machine.execPop d a b s
  | .pushn d a b => Sys2Proof.Machine.execPushn d a b s
  | .popn d a b => Sys2Proof.Machine.execPopn d a b s
  | .gres d a b => Sys2Proof.Machine.execGres d a b s
  | .copy d a b => Sys2Proof.Machine.execCopy d a b s
  | .chase d a b => Sys2Proof.Machine.execChase d a b s
  | .chdef d a b => Sys2Proof.Machine.execChdef d a b s
  | .macq d a b => Sys2Proof.Machine.execMacq d a b s
  | .mrel d a b => Sys2Proof.Machine.execMrel d a b s
  | .mshp d a b => Sys2Proof.Machine.execMshp d a b s
  | .mma d a b => Sys2Proof.Machine.execMma d a b s
  | .mzero d a b => Sys2Proof.Machine.execMzero d a b s
  | .mrd d a b => Sys2Proof.Machine.execMrd d a b s
  | .mwr d a b => Sys2Proof.Machine.execMwr d a b s
  | .amsg d a b => Sys2Proof.Machine.execAmsg d a b s
  | .slk d a b => Sys2Proof.Machine.execSlk d a b s
  | .circ d a b => Sys2Proof.Machine.execCirc d a b s
  | .crel d a b => Sys2Proof.Machine.execCrel d a b s
  | .snap d a b => Sys2Proof.Machine.execSnap d a b s
  | .genq d a b => Sys2Proof.Machine.execGenq d a b s
  | .grel d a b => Sys2Proof.Machine.execGrel d a b s
  | .unassignedOpcode w => Sys2Proof.Machine.execUnassignedOpcode w s
  | .fetchLine g e => Sys2Proof.Machine.execFetchLine g e s
  | .jetGrant p core => Sys2Proof.Machine.execJetGrant p core s
  | .resultReturn g id => Sys2Proof.Machine.execResultReturn g id s
  | .storeQueueDeparture g => Sys2Proof.Machine.execStoreQueueDeparture g s
  | .sliceApply slice => Sys2Proof.Machine.execSliceApply slice s
  | .acknowledgement id => Sys2Proof.Machine.execAcknowledgement id s
  | .arbitration pt merge => Sys2Proof.Machine.execArbitration pt merge s
  | .transitWindow => Sys2Proof.Machine.execTransitWindow s
  | .circuitIdleEnd wg n => Sys2Proof.Machine.execCircuitIdleEnd wg n s
  | .pageWalk g page => Sys2Proof.Machine.execPageWalk g page s
  | .clusterMove p c => Sys2Proof.Machine.execClusterMove p c s
  | .registerGrowth g e => Sys2Proof.Machine.execRegisterGrowth g e s
  | .rgrowFailure p core => Sys2Proof.Machine.execRgrowFailure p core s
  | .waitaRead g e => Sys2Proof.Machine.execWaitaRead g e s
  | .copyCommandStart p core => Sys2Proof.Machine.execCopyCommandStart p core s
  | .copySector wg id k => Sys2Proof.Machine.execCopySector wg id k s
  | .chaseHop g id => Sys2Proof.Machine.execChaseHop g id s
  | .matrixAllocator p core => Sys2Proof.Machine.execMatrixAllocator p core s
  | .mmaStep p core => Sys2Proof.Machine.execMmaStep p core s
  | .messagePost p off bytes => Sys2Proof.Machine.execMessagePost p off bytes s
  | .messageWindowRead p off => Sys2Proof.Machine.execMessageWindowRead p off s
  | .launchHandlerSpawn p => Sys2Proof.Machine.execLaunchHandlerSpawn p s
  | .messageArrival p m => Sys2Proof.Machine.execMessageArrival p m s
  | .messageHandlerSpawn p => Sys2Proof.Machine.execMessageHandlerSpawn p s
  | .dependencyRead p e k => Sys2Proof.Machine.execDependencyRead p e k s
  | .gangPlacement p => Sys2Proof.Machine.execGangPlacement p s
  | .passedOverLimit p e => Sys2Proof.Machine.execPassedOverLimit p e s
  | .workgroupRetirement wg => Sys2Proof.Machine.execWorkgroupRetirement wg s
  | .peerLoss p peer => Sys2Proof.Machine.execPeerLoss p peer s
  | .replicaForward p set addr bytes => Sys2Proof.Machine.execReplicaForward p set addr bytes s
  | .replicaLoss p set => Sys2Proof.Machine.execReplicaLoss p set s
  | .preEmption p clusters => Sys2Proof.Machine.execPreEmption p clusters s
  | .granuleClaim p gr => Sys2Proof.Machine.execGranuleClaim p gr s
  | .contextResume p c => Sys2Proof.Machine.execContextResume p c s
  | .restart g => Sys2Proof.Machine.execRestart g s
  | .scanDrain => Sys2Proof.Machine.execScanDrain s
  | .scan core => Sys2Proof.Machine.execScan core s
  | .scanCompletion core pass => Sys2Proof.Machine.execScanCompletion core pass s
  | .cut p => Sys2Proof.Machine.execCut p s
  | .backgroundCopier p blk sector => Sys2Proof.Machine.execBackgroundCopier p blk sector s
  | .sluice p => Sys2Proof.Machine.execSluice p s
  | .bandwidthInterval => Sys2Proof.Machine.execBandwidthInterval s
  | .memoryThermalStep stack celsius => Sys2Proof.Machine.execMemoryThermalStep stack celsius s
  | .powerCapStep watts => Sys2Proof.Machine.execPowerCapStep watts s
  | .droopDetection cl sig => Sys2Proof.Machine.execDroopDetection cl sig s
  | .droopPrediction cl sig => Sys2Proof.Machine.execDroopPrediction cl sig s
  | .confidenceDecay => Sys2Proof.Machine.execConfidenceDecay s
  | .coreThermal die celsius => Sys2Proof.Machine.execCoreThermal die celsius s
  | .railLimit r amps => Sys2Proof.Machine.execRailLimit r amps s
  | .railTrip r amps => Sys2Proof.Machine.execRailTrip r amps s
  | .hbmTrip stack celsius => Sys2Proof.Machine.execHbmTrip stack celsius s
  | .overheat stackC dieC => Sys2Proof.Machine.execOverheat stackC dieC s
  | .partitionReset p => Sys2Proof.Machine.execPartitionReset p s
  | .partitionReload p cfg => Sys2Proof.Machine.execPartitionReload p cfg s
  | .invalcfgClear p v => Sys2Proof.Machine.execInvalcfgClear p v s
  | .errstatClear p v => Sys2Proof.Machine.execErrstatClear p v s
  | .errdropRead p => Sys2Proof.Machine.execErrdropRead p s
  | .energyloRead p req => Sys2Proof.Machine.execEnergyloRead p req s
  | .energyhiRead p req => Sys2Proof.Machine.execEnergyhiRead p req s
  | .railWrite n v => Sys2Proof.Machine.execRailWrite n v s
  | .railSettled n => Sys2Proof.Machine.execRailSettled n s
  | .lnkctlWrite n v => Sys2Proof.Machine.execLnkctlWrite n v s
  | .registerWrite p off v => Sys2Proof.Machine.execRegisterWrite p off v s
  | .linkPark n => Sys2Proof.Machine.execLinkPark n s
  | .linkWake n => Sys2Proof.Machine.execLinkWake n s
  | .wakeComplete n => Sys2Proof.Machine.execWakeComplete n s
  | .ringLockStep => Sys2Proof.Machine.execRingLockStep s
  | .ringSaturation fe ring => Sys2Proof.Machine.execRingSaturation fe ring s
  | .claim who => Sys2Proof.Machine.execClaim who s
  | .release who => Sys2Proof.Machine.execRelease who s
  | .handover who heir => Sys2Proof.Machine.execHandover who heir s
  | .gauge who n => Sys2Proof.Machine.execGauge who n s
  | .logread who seq => Sys2Proof.Machine.execLogread who seq s
  | .quote who nonce => Sys2Proof.Machine.execQuote who nonce s
  | .imgwrite who off bytes => Sys2Proof.Machine.execImgwrite who off bytes s
  | .activate who => Sys2Proof.Machine.execActivate who s
  | .powercap who watts => Sys2Proof.Machine.execPowercap who watts s
  | .clamp who mask aper => Sys2Proof.Machine.execClamp who mask aper s
  | .railbound who rail aper amps => Sys2Proof.Machine.execRailbound who rail aper amps s
  | .ownershipLapse => Sys2Proof.Machine.execOwnershipLapse s
  | .handoverExpiry => Sys2Proof.Machine.execHandoverExpiry s
  | .observatoryBoot => Sys2Proof.Machine.execObservatoryBoot s
  | .trialExpiry => Sys2Proof.Machine.execTrialExpiry s
  | .moduleReset => Sys2Proof.Machine.execModuleReset s
  | .heartbeat => Sys2Proof.Machine.execHeartbeat s
  | .imageConfirm => Sys2Proof.Machine.execImageConfirm s
  | .cancellation p crec => Sys2Proof.Machine.execCancellation p crec s
  | .coreThermalRelease die celsius => Sys2Proof.Machine.execCoreThermalRelease die celsius s
  | .railLimitRelease r amps => Sys2Proof.Machine.execRailLimitRelease r amps s
  | .railTripRelease r amps => Sys2Proof.Machine.execRailTripRelease r amps s
  | .hbmTripRelease stack celsius => Sys2Proof.Machine.execHbmTripRelease stack celsius s

end Sys2Proof.Machine
end

