-- ==== Sys2Proof/Machine/Firmware.lean ====
section
/-!
DEFINITION. The Observatory's quad (R351): one Ighal quad that runs its firmware in supervisor mode from 256 KiB of private memory,
and its traffic of owner tag 15.
-/

namespace Sys2Proof.Machine

/-! ## The quad and its memory (R351) -/

/-- The quad with nothing of the module around it: its private memory stands at addresses 0x0_0000 to 0x3_FFFF, in four pages that no
other shares. DESIGN CHOICE (log 72): an instruction finds one workgroup of one group, and no engine. -/
def alone (s : State) : State :=
  let pages := List.range 4
  { tick := s.tick, nextId := s.nextId, now := s.now, obs := s.obs, hbm := s.obs.priv
    groups := [s.obs.cpu], wgs := [s.obs.unit], gangs := [{ wgs := [0] }], grids := [{ wgs := 1, placed := 1 }]
    parts := { returned := pages.map fun k => (0, k) } :: List.replicate 11 {}
    tlb := pages.map fun k => { core := 0, part := 0, page := k, leaf := { frame := k, write := true } } }

/-- The quad's memory performs at once what it has sent: its stores, its atomics, then its loads, whose results return. -/
def performed (s : State) : State :=
  let s := s.flight.foldl (fun s w => (performWrite s w).getD s) s
  let s := { s with flight := [], groups := s.groups.map fun gr => { gr with reqs := gr.reqs.map fun r => { r with stage := .served } } }
  let s := (captureAll s 0).getD s
  ((groupAt s 0).reqs.filter (·.data.isSome)).foldl (fun s r => receive s 0 false r) s

/-- The quad's store queue departs, and what has departed is performed, n times over. -/
def settledQuad : Nat → State → State
  | 0, s => s
  | n + 1, s => settledQuad n (performed (afterEvent s (execStoreQueueDeparture 0 s)))

/-- What a turn of split e of the lone quad leaves: the split takes the jet where it is ready, and issues its instruction or fetches its
line; one that is parked at a WAITA reads its words. -/
def quadTurn (e : Nat) (s : State) : State :=
  let sp := splitAt (groupAt s 0) e
  let s := if sp.valid && sp.st == .ready then modGroup s 0 fun gr => modSplit gr e granted else s
  let s' :=
    if sp.st == .atWaita then afterEvent s (execWaitaRead 0 e s)
    else match prepare s 0 e with
      | .stay s' => s'
      | .run i s' => afterEvent s (exec i s')
  let s' := endWaits (recheckEnded 8 s s')
  wake (settledQuad ((groupAt s' 0).storeQ.length + 1) s') 0

/-- A turn of split e of the Observatory's quad: what it does to its registers, its private memory, the log and the clock stays. -/
def firmwareStep (e : Nat) (s : State) : State :=
  let t := quadTurn e (alone s)
  advance { s with nextId := t.nextId, obs := { t.obs with cpu := groupAt t 0, unit := wgAt t 0, priv := t.hbm } } t.now

/-- An access of owner tag 15 (R351, R293): a slice admits it only to the module-reserved frames, which are no partition's; another
is system traffic's foreign access, and logged (R299). A store changes memory; a load gives its word to a register of a lane of the
quad. DESIGN CHOICE (log 72): which instruction makes the access is not stated. -/
def tag15 (kind addr : Nat) (store : Option (List Byte)) (lane reg : Nat) (s : State) : State :=
  let frame := addr / 65536
  let loc : Loc := ⟨if kind == 0 then .hbm else .cap, addr⟩
  let ours := Config.reservedFrame kind frame && kind < 2 && !((List.range 12).any fun p => (partAt s p).cfg.isSome && owns s p kind frame)
  if !ours then obsLog s (0x100 + homeSlice frame) (256 + 6) frame
  else match store with
  | none => modObs s fun o => { o with cpu := vSet o.cpu lane reg (BitVec.ofNat 32 (leNat (homeBytes s loc 4))) }
  | some b => if 65536 < addr % 65536 + b.length then s else pokeBytes s loc b

end Sys2Proof.Machine
end

