-- ==== Sys2Proof/Machine/Upset.lean ====
section
/-!
DEFINITION. What an error strikes from outside (R327): the check that finds it acts when the thing struck is read. And
the state in which a given word is fetched and about to issue.
-/

namespace Sys2Proof.Machine

/-- An uncorrectable error of a sector strikes the backing that the live image has there: a closed generation that still
shares it reads poison too, and one whose backing was superseded in that sector does not (R310, R331). -/
def strikeSector (s : State) (kind sec : Nat) : State :=
  let blk := sec / 2048
  let was := (if kind == 0 then s.poison else s.poisonCap).contains sec
  let apart (lb : LiveBlk) : Bool := lb.kind == kind && lb.blk == blk && (lb.full || lb.filled.contains (sec % 2048))
  let spare (pt : Partition) : Partition :=
    match pt.live.find? apart with
    | none => pt
    | some lb => { pt with gens := genSave (genBad · kind) (setGenBad · kind) pt.gens lb.gen sec was true }
  let s := { s with parts := s.parts.map spare }
  if kind == 0 then { s with poison := setAdd sec s.poison } else { s with poisonCap := setAdd sec s.poisonCap }

/-- An upset. A correctable error is corrected at once with its error-ring entry of kind 7. -/
def strike (u : Upset) (s : State) : State :=
  match u with
  | .residue g => modGroup s g fun gr => { gr with residue := true }
  | .vreg g l r => modGroup s g fun gr => modLane gr l fun ln => { ln with errV := setAdd r ln.errV }
  | .preg g l p => modGroup s g fun gr => modLane gr l fun ln => { ln with errP := setAdd p ln.errP }
  | .sreg g k r => modGroup s g fun gr => modQuad gr k fun q => { q with errS := setAdd r q.errS }
  | .accum w row col =>
    modWg s w fun x => { x with reserv := x.reserv.map fun v => { v with err := setAdd (row * 256 + col) v.err } }
  | .scale w off => modWg s w fun x => { x with errScale := setAdd off x.errScale }
  | .pool k a => modGang s k fun gg => { gg with poisonPool := setAdd (a / 4) gg.poisonPool }
  | .sector cap pa =>
    strikeSector s (if cap then 1 else 0) (pa / 32)
  | .checksum p core => modCore s p core fun c => { c with checksumBad := true }
  | .corrected p cls addr unit => correctedError s p cls addr unit

/-- A fetched line whose slots 0 and 1 hold two words: VER 1, LAST 1, START and TARGET as the first word's length wants. -/
def lineOfWords (w l : Word) : List Byte :=
  let two := isTwoWord (opcodeOf w)
  let start := if two then 1 else 3
  leBytes 16 (start + start * 2 ^ 28 + 2 ^ 112 + 1 * 2 ^ 115) ++ bytesOfWord w ++ bytesOfWord l ++ leBytes 104 0

/-- The group of withFetchWord: one quad, lane 0 real, registers zero. -/
def oneGroup (wg : Nat) (line : List Byte) : Group :=
  let helper : Lane := { helper := true }
  let quad : Quad := { alloc := 64, lanes := [{}, helper, helper, helper] }
  let sp : Split :=
    { valid := true, qmask := 1, st := .issuing, pc := 16, act := 15, line := line, lineVa := 0 }
  { wg := wg, quads := [quad], splits := [sp, {}, {}, {}, {}, {}, {}, {}, {}] }

/-- s with a group of its own about to issue a word. -/
def fetchWordState (s : State) (nbits w : Nat) : State :=
  let v := w % 2 ^ nbits
  let line := lineOfWords (BitVec.ofNat 32 v) (BitVec.ofNat 32 (v / 2 ^ 32))
  let g := s.groups.length
  let wi := s.wgs.length
  { s with
    agenda := .issue g 0 :: s.agenda
    groups := s.groups ++ [oneGroup wi line]
    wgs := s.wgs ++ [{ grid := s.grids.length, gang := s.gangs.length, groups := [g], aper := 1 }]
    gangs := s.gangs ++ [{ grid := s.grids.length, wgs := [wi] }]
    grids := s.grids ++ [{ wgs := 1, placed := 1 }] }

end Sys2Proof.Machine
end

