-- ==== Sys2Proof/WellFormed.lean ====
section
/-!
DEFINITION. Well-formedness of an instruction as syntax: the field checks of R31 (step 5 of R35) and the bases of
the runs that no mode word decides (R10, R32); and the ranges of an event's operands. The machine does not assume
it: an ill-formed word takes the fault that R35 gives.
-/

namespace Sys2Proof

/-- Base rule of the pairs and runs that Table 3.2 fixes whatever the mode word holds (step 6 of R35 without an allocation). -/
def basesOk (f : Field) (x : Nat) : Bool :=
  match f with
  | .vpair | .spair => x % 2 == 0
  | .vpairOrNone => x == 255 || x % 2 == 0
  | .vrun8 => x % 8 == 0
  | .vrun n => x + n ≤ 256
  | .srun n al last => x % al == 0 && x + n ≤ 64 && x ≤ last
  | _ => true

/-- Fields (R31) and fixed bases (R10, R32) of an instruction with opcode op. -/
def wordOk (op : Nat) (d a b : Byte) : Bool :=
  match Table.row op with
  | none => false
  | some r =>
    Table.fieldsOk r d.toNat a.toNat b.toNat && basesOk r.d d.toNat && basesOk r.a a.toNat && basesOk r.b b.toNat

/-- The opcode, D, A and B of an instruction (Table 3.1); none for an event. -/
def Instr.parts : Instr → Option (Nat × Byte × Byte × Byte)
  | .nop d a b => some (0x00, d, a, b)
  | .bra d a b _ => some (0x01, d, a, b)
  | .brs d a b _ => some (0x02, d, a, b)
  | .brd d a b _ => some (0x03, d, a, b)
  | .join d a b => some (0x04, d, a, b)
  | .brk d a b _ => some (0x05, d, a, b)
  | .jt d a b => some (0x06, d, a, b)
  | .call d a b _ => some (0x07, d, a, b)
  | .calli d a b => some (0x08, d, a, b)
  | .ret d a b => some (0x09, d, a, b)
  | .exit d a b => some (0x0A, d, a, b)
  | .demote d a b => some (0x0B, d, a, b)
  | .apt d a b => some (0x0C, d, a, b)
  | .rgrow d a b => some (0x0D, d, a, b)
  | .rshrk d a b => some (0x0E, d, a, b)
  | .idem d a b => some (0x0F, d, a, b)
  | .mode d a b => some (0x10, d, a, b)
  | .modx d a b => some (0x11, d, a, b)
  | .grd d a b => some (0x12, d, a, b)
  | .trap d a b => some (0x13, d, a, b)
  | .rett d a b => some (0x14, d, a, b)
  | .gets d a b => some (0x15, d, a, b)
  | .sets d a b => some (0x16, d, a, b)
  | .launch d a b => some (0x17, d, a, b)
  | .tlbi d a b => some (0x18, d, a, b)
  | .add d a b => some (0x20, d, a, b)
  | .sub d a b => some (0x21, d, a, b)
  | .mul d a b => some (0x22, d, a, b)
  | .mulh d a b => some (0x23, d, a, b)
  | .mad d a b => some (0x24, d, a, b)
  | .min d a b => some (0x25, d, a, b)
  | .max d a b => some (0x26, d, a, b)
  | .and d a b => some (0x27, d, a, b)
  | .or d a b => some (0x28, d, a, b)
  | .xor d a b => some (0x29, d, a, b)
  | .andn d a b => some (0x2A, d, a, b)
  | .shl d a b => some (0x2B, d, a, b)
  | .shr d a b => some (0x2C, d, a, b)
  | .sar d a b => some (0x2D, d, a, b)
  | .bfe d a b => some (0x2E, d, a, b)
  | .bfi d a b => some (0x2F, d, a, b)
  | .popc d a b => some (0x30, d, a, b)
  | .clz d a b => some (0x31, d, a, b)
  | .brev d a b => some (0x32, d, a, b)
  | .sel d a b => some (0x33, d, a, b)
  | .cmp d a b => some (0x34, d, a, b)
  | .addi d a b => some (0x35, d, a, b)
  | .shli d a b => some (0x36, d, a, b)
  | .shri d a b => some (0x37, d, a, b)
  | .sari d a b => some (0x38, d, a, b)
  | .mov d a b => some (0x39, d, a, b)
  | .movi d a b => some (0x3A, d, a, b)
  | .movh d a b => some (0x3B, d, a, b)
  | .lit d a b _ => some (0x3C, d, a, b)
  | .lea d a b => some (0x3D, d, a, b)
  | .addx d a b => some (0x3E, d, a, b)
  | .fadd d a b => some (0x40, d, a, b)
  | .fsub d a b => some (0x41, d, a, b)
  | .fmul d a b => some (0x42, d, a, b)
  | .fma d a b => some (0x43, d, a, b)
  | .fnma d a b => some (0x44, d, a, b)
  | .fmin d a b => some (0x45, d, a, b)
  | .fmax d a b => some (0x46, d, a, b)
  | .fcmp d a b => some (0x47, d, a, b)
  | .rsq d a b => some (0x48, d, a, b)
  | .rcp d a b => some (0x49, d, a, b)
  | .ex2 d a b => some (0x4A, d, a, b)
  | .lg2 d a b => some (0x4B, d, a, b)
  | .frnd d a b => some (0x4C, d, a, b)
  | .fcls d a b => some (0x4D, d, a, b)
  | .cvt d a b => some (0x4E, d, a, b)
  | .cvtn d a b => some (0x4F, d, a, b)
  | .cvtw d a b => some (0x50, d, a, b)
  | .twos d a b => some (0x51, d, a, b)
  | .sadd d a b => some (0x58, d, a, b)
  | .ssub d a b => some (0x59, d, a, b)
  | .smul d a b => some (0x5A, d, a, b)
  | .sand d a b => some (0x5B, d, a, b)
  | .sor d a b => some (0x5C, d, a, b)
  | .sxor d a b => some (0x5D, d, a, b)
  | .sshl d a b => some (0x5E, d, a, b)
  | .sshr d a b => some (0x5F, d, a, b)
  | .scmp d a b => some (0x60, d, a, b)
  | .smov d a b => some (0x61, d, a, b)
  | .smovi d a b => some (0x62, d, a, b)
  | .slit d a b _ => some (0x63, d, a, b)
  | .saddx d a b => some (0x64, d, a, b)
  | .sld d a b => some (0x65, d, a, b)
  | .sst d a b => some (0x66, d, a, b)
  | .bcast d a b => some (0x67, d, a, b)
  | .rdln d a b => some (0x68, d, a, b)
  | .qswz d a b => some (0x70, d, a, b)
  | .shfl d a b => some (0x71, d, a, b)
  | .shfx d a b => some (0x72, d, a, b)
  | .shup d a b => some (0x73, d, a, b)
  | .vote d a b => some (0x74, d, a, b)
  | .vtst d a b => some (0x75, d, a, b)
  | .ld d a b => some (0x80, d, a, b)
  | .ldx d a b => some (0x81, d, a, b)
  | .st d a b => some (0x82, d, a, b)
  | .stx d a b => some (0x83, d, a, b)
  | .ldp d a b => some (0x84, d, a, b)
  | .stp d a b => some (0x85, d, a, b)
  | .ldv d a b => some (0x86, d, a, b)
  | .pref d a b => some (0x87, d, a, b)
  | .fence d a b => some (0x88, d, a, b)
  | .aadd d a b => some (0x90, d, a, b)
  | .amin d a b => some (0x91, d, a, b)
  | .amax d a b => some (0x92, d, a, b)
  | .aand d a b => some (0x93, d, a, b)
  | .aor d a b => some (0x94, d, a, b)
  | .axor d a b => some (0x95, d, a, b)
  | .axch d a b => some (0x96, d, a, b)
  | .acas d a b => some (0x97, d, a, b)
  | .afadd d a b => some (0x98, d, a, b)
  | .redc d a b => some (0x99, d, a, b)
  | .cprd d a b => some (0x9A, d, a, b)
  | .redx d a b => some (0x9B, d, a, b)
  | .bar d a b => some (0xA0, d, a, b)
  | .gbar d a b => some (0xA1, d, a, b)
  | .waita d a b => some (0xA2, d, a, b)
  | .qdef d a b => some (0xA3, d, a, b)
  | .push d a b => some (0xA4, d, a, b)
  | .pop d a b => some (0xA5, d, a, b)
  | .pushn d a b => some (0xA6, d, a, b)
  | .popn d a b => some (0xA7, d, a, b)
  | .gres d a b => some (0xA8, d, a, b)
  | .copy d a b => some (0xB0, d, a, b)
  | .chase d a b => some (0xB1, d, a, b)
  | .chdef d a b => some (0xB2, d, a, b)
  | .macq d a b => some (0xB3, d, a, b)
  | .mrel d a b => some (0xB4, d, a, b)
  | .mshp d a b => some (0xB5, d, a, b)
  | .mma d a b => some (0xB6, d, a, b)
  | .mzero d a b => some (0xB7, d, a, b)
  | .mrd d a b => some (0xB8, d, a, b)
  | .mwr d a b => some (0xB9, d, a, b)
  | .amsg d a b => some (0xC0, d, a, b)
  | .slk d a b => some (0xC1, d, a, b)
  | .circ d a b => some (0xC2, d, a, b)
  | .crel d a b => some (0xC3, d, a, b)
  | .snap d a b => some (0xC4, d, a, b)
  | .genq d a b => some (0xC5, d, a, b)
  | .grel d a b => some (0xC6, d, a, b)
  | .unassignedOpcode _ => none
  | .fetchLine _ _ => none
  | .jetGrant _ _ => none
  | .resultReturn _ _ => none
  | .storeQueueDeparture _ => none
  | .sliceApply _ => none
  | .acknowledgement _ => none
  | .arbitration _ _ => none
  | .transitWindow => none
  | .circuitIdleEnd _ _ => none
  | .pageWalk _ _ => none
  | .clusterMove _ _ => none
  | .registerGrowth _ _ => none
  | .rgrowFailure _ _ => none
  | .waitaRead _ _ => none
  | .copyCommandStart _ _ => none
  | .copySector _ _ _ => none
  | .chaseHop _ _ => none
  | .matrixAllocator _ _ => none
  | .mmaStep _ _ => none
  | .messagePost _ _ _ => none
  | .messageWindowRead _ _ => none
  | .launchHandlerSpawn _ => none
  | .messageArrival _ _ => none
  | .messageHandlerSpawn _ => none
  | .dependencyRead _ _ _ => none
  | .gangPlacement _ => none
  | .passedOverLimit _ _ => none
  | .workgroupRetirement _ => none
  | .peerLoss _ _ => none
  | .replicaForward _ _ _ _ => none
  | .replicaLoss _ _ => none
  | .preEmption _ _ => none
  | .granuleClaim _ _ => none
  | .contextResume _ _ => none
  | .restart _ => none
  | .scanDrain => none
  | .scan _ => none
  | .scanCompletion _ _ => none
  | .cut _ => none
  | .backgroundCopier _ _ _ => none
  | .sluice _ => none
  | .bandwidthInterval => none
  | .memoryThermalStep _ _ => none
  | .powerCapStep _ => none
  | .droopDetection _ _ => none
  | .droopPrediction _ _ => none
  | .confidenceDecay => none
  | .coreThermal _ _ => none
  | .railLimit _ _ => none
  | .railTrip _ _ => none
  | .hbmTrip _ _ => none
  | .overheat _ _ => none
  | .partitionReset _ => none
  | .partitionReload _ _ => none
  | .invalcfgClear _ _ => none
  | .errstatClear _ _ => none
  | .errdropRead _ => none
  | .energyloRead _ _ => none
  | .energyhiRead _ _ => none
  | .railWrite _ _ => none
  | .railSettled _ => none
  | .lnkctlWrite _ _ => none
  | .registerWrite _ _ _ => none
  | .linkPark _ => none
  | .linkWake _ => none
  | .wakeComplete _ => none
  | .ringLockStep => none
  | .ringSaturation _ _ => none
  | .claim _ => none
  | .release _ => none
  | .handover _ _ => none
  | .gauge _ _ => none
  | .logread _ _ => none
  | .quote _ _ => none
  | .imgwrite _ _ _ => none
  | .activate _ => none
  | .powercap _ _ => none
  | .clamp _ _ _ => none
  | .railbound _ _ _ _ => none
  | .ownershipLapse => none
  | .handoverExpiry => none
  | .observatoryBoot => none
  | .trialExpiry => none
  | .moduleReset => none
  | .heartbeat => none
  | .imageConfirm => none
  | .cancellation _ _ => none
  | .coreThermalRelease _ _ => none
  | .railLimitRelease _ _ => none
  | .railTripRelease _ _ => none
  | .hbmTripRelease _ _ => none

/-- Operand ranges of an event: partitions 0 to 11 (R293), logical cores 0 to 95, slices 0 to 47 (R144), stacks 0 to
11, dies 0 to 3, rails 1 to 4 (R337), links 0 to 47 (R346), clusters 0 to 11. -/
def eventOk : Instr → Bool
  | .jetGrant p core | .rgrowFailure p core | .copyCommandStart p core | .matrixAllocator p core | .mmaStep p core =>
    p < 12 && core < 96
  | .fetchLine _ e => e ≤ 8
  | .sliceApply n => n < 48
  | .scan core | .scanCompletion core _ => core < 96
  | .memoryThermalStep st _ | .hbmTrip st _ | .hbmTripRelease st _ => st < 12
  | .coreThermal d _ | .coreThermalRelease d _ => d < 4
  | .railLimit r _ | .railTrip r _ | .railLimitRelease r _ | .railTripRelease r _ => 1 ≤ r && r ≤ 4
  | .droopDetection c _ | .droopPrediction c _ => c < 12
  | .railWrite n _ | .railSettled n => 1 ≤ n && n ≤ 4
  | .lnkctlWrite n _ | .linkPark n | .linkWake n | .wakeComplete n => n < 48
  | .partitionReset p | .partitionReload p _ | .invalcfgClear p _ | .errstatClear p _ | .errdropRead p
  | .energyloRead p _ | .energyhiRead p _ | .cut p | .sluice p | .launchHandlerSpawn p | .messageHandlerSpawn p
  | .gangPlacement p | .registerWrite p _ _ => p < 12
  | .ringSaturation fe ring => fe < 48 && ring < 17
  | _ => true

/-- Well-formedness. An unassigned word is well-formed as itself exactly where Table 3.1 leaves its opcode unassigned. -/
def Instr.wf (i : Instr) : Bool :=
  match i with
  | .unassignedOpcode w => (Table.row (w.extractLsb' 24 8).toNat).isNone
  | _ =>
    match i.parts with
    | some (op, d, a, b) => wordOk op d a b
    | none => eventOk i

end Sys2Proof
end

