-- ==== Sys2Proof/Machine/Step.lean ====
section
/-!
DEFINITION. One step: the agent whose turn it is moves (a split issues one instruction, an event happens, an upset
strikes); and a state about to run a given word.
-/

namespace Sys2Proof.Machine

/-- The agent that moves next, and the agenda after it. -/
def nextTurn (s : State) : Turn × List Turn :=
  match s.agenda with
  | [] => (Config.nextTurn s.tick, [])
  | t :: r => (t, r)

/-- Whether a step is an event, which happens without being fetched. -/
def isEvent (i : Instr) : Bool :=
  match i with
  | .unassignedOpcode _ => false
  | _ => i.parts.isNone

/-- The outcome of a step, with what follows from it. -/
def settledStep (s : State) (o : Out) : Out :=
  match o with
  | .next s' => .next (afterStep s s')
  | x => x

/-- The step function. An instruction is executed only as the one a split fetched. -/
def step (s : State) : Host.Outcome State Fault Refusal :=
  let (turn, rest) := nextTurn s
  let s := { s with agenda := rest, tick := s.tick + 1, cur := none }
  match turn with
  | .issue g e =>
    match prepare s g e with
    | .stay s' => settledStep s (.next s')
    | .run i s' => settledStep s (exec i s')
  | .act i => if isEvent i then settledStep s (exec i s) else .next s
  | .upset u => settledStep s (.next (strike u s))
  | .evict core page =>
    let stays (unit : Nat) (t : TlbEntry) : Bool := !(t.core == unit && t.page == page)
    .next { s with tlb := s.tlb.filter (stays core), ctlb := if core < 96 then s.ctlb else s.ctlb.filter (stays (core - 96)) }
  | .remote p src loc op size slack => settledStep s (.next (remoteWrite s p src loc op size slack))
  | .resync p set => settledStep s (.next (resyncReplica s p set))
  | .energy p => .next (readEnergy p s)
  | .linkAck n => .next (linkAck n s)
  | .ringLock fe wave => .next (ringLock fe wave s)
  | .ringTarget fe ring v => .next (ringTarget fe ring v s)
  | .laserDrive fe mw => .next (laserDrive fe mw s)
  | .request who b => settledStep s (.next (obsRequest who b s))
  | .logMore who => .next (logMore who s)
  | .firmware e => .next (firmwareStep e s)
  | .tag15 kind addr store lane reg => .next (tag15 kind addr store lane reg s)

/-- s with one more group, of a one-thread workgroup of partition 0 on core 0, whose split 0 has been granted a jet and has
fetched a line with the word of nbits bits in slots 0 and 1; its turn is next. -/
def State.withFetchWord (s : State) (nbits w : Nat) : State :=
  fetchWordState s nbits w

end Sys2Proof.Machine
end

