-- ==== Sys2Proof/Safety.lean ====
section
/-!
DEFINITION. What counts as a safe run, and the terms in which the statements speak of a step: a split whose instruction
passes every check, the change that a register instruction makes, what it leaves.
-/

namespace Sys2Proof.Machine

/-- A state from which one step does not stop. -/
def goesOn (s : State) : Prop := ∃ s', step s = .next s'

/-- k steps from s all end in a next state. -/
def safeFor : Nat → State → Prop
  | 0, _ => True
  | k + 1, s => ∃ s', step s = .next s' ∧ safeFor k s'

/-! ## An instruction that passes every check -/

/-- The lanes in which an instruction acts or faults (R22, R35): the active ones, of which a guarded instruction takes
those whose guard is 1. -/
def actingLanes (s : State) (g e op a : Nat) : List Nat :=
  if Table.takesGuarded op ((Table.row op).getD {}) a then (activeLanes s g e).filter (guardOn (groupAt s g))
  else activeLanes s g e

/-- The quads of the split that hold an active lane. -/
def actingQuads (s : State) (g e : Nat) : List Nat := bitsOf (quadsOfLanes (splitAt (groupAt s g) e).act)

/-- Split e of group g issues an instruction that passes checks 4 to 8 of R35, and no operand is struck by an error or
poisoned (R327, R331). -/
structure Clear (s : State) (g e op d a b : Nat) : Prop where
  cur : s.cur = some (g, e)
  valid : (splitAt (groupAt s g) e).valid = true
  active : (splitAt (groupAt s g) e).act ≠ 0
  unmarked : (splitAt (groupAt s g) e).marked = []
  allowed : privBad s g e op ((Table.row op).getD {}) = false
  fields : Table.fieldsOk ((Table.row op).getD {}) d a b = true
  inRange : op = 0x9B → redxBad (groupAt s g) d (takers s g e op a) = false
  queue : queueCheck s g op d a b = 0
  quads : ∀ k ∈ actingQuads s g e, quadCheck (groupAt s g) op d a b ((Table.row op).getD {}) k = 0
  ready : (splitAt (groupAt s g) e).park.isSome = true ∨
    anyPending s g op d a b ((Table.row op).getD {}) (actingQuads s g e) = false
  residue : 0x20 ≤ op → op ≤ 0x51 → (groupAt s g).residue = false
  clean : meet s g op d a b (actingQuads s g e) (activeLanes s g e) (actingLanes s g e op a) = .clean

/-- What an effect is given when its instruction passes every check. -/
def envOf (s : State) (g e op d a b : Nat) (l : Word) : Env :=
  { s := s, g := g, e := e, op := op, d := d, a := a, b := b, l := l, pc := (splitAt (groupAt s g) e).pc
    quads := actingQuads s g e, act := activeLanes s g e, lanes := actingLanes s g e op a }

/-- What follows an instruction that did not end the run itself: the run ends where R17 says so. -/
def afterRun (s t : State) (g e : Nat) : State := if runEnds (splitAt (groupAt s g) e) then endRun t g e else t

/-- t with the run of split e noted: the cycle in which its instruction issued in s, and when what it wrote can be read (R61). -/
def ran (s t : State) (g e op d a b : Nat) : State := modGroup t g fun gr => modSplit gr e (issuedIn s g e op d a b)

/-- sp at the time of its run at which sp' is (R61). -/
def atTimeOf (sp sp' : Split) : Split := { sp with ready := sp'.ready, cycle := sp'.cycle }

/-! ## What a register instruction changes and leaves -/

/-- t is s but for group g. -/
def OnlyGroup (s t : State) (g : Nat) : Prop :=
  t = { s with groups := t.groups } ∧ t.groups.length = s.groups.length ∧ ∀ k, k ≠ g → groupAt t k = groupAt s k

/-- The group has this lane. -/
abbrev laneThere (gr : Group) (l : Nat) : Prop := l / 4 < gr.quads.length ∧ l % 4 < (quadAt gr (l / 4)).lanes.length

/-- The group has this quad. -/
abbrev quadThere (gr : Group) (k : Nat) : Prop := k < gr.quads.length

/-- A group after a register instruction of split e: the split has moved past the instruction's words, and has the time of its
run noted (R61); besides it only lanes, quads and the record of the registers written (R329) may
differ. -/
def RegsOnly (gr gr' : Group) (e words : Nat) : Prop :=
  gr' = { gr with quads := gr'.quads, splits := gr'.splits, writtenV := gr'.writtenV, writtenS := gr'.writtenS,
                  writtenP := gr'.writtenP } ∧
  gr'.quads.length = gr.quads.length ∧
  (∀ j, splitAt gr' j = if j = e then atTimeOf (stepPast (splitAt gr e) words) (splitAt gr' e) else splitAt gr j)

/-- Quad k keeps all but its lanes. -/
def quadKept (gr gr' : Group) (k : Nat) : Prop :=
  quadAt gr' k = { quadAt gr k with lanes := (quadAt gr' k).lanes }

/-- Quad k keeps all but its sequencer registers (and what is known of their words). -/
def quadKeptS (gr gr' : Group) (k : Nat) : Prop :=
  quadAt gr' k = { quadAt gr k with
    s := (quadAt gr' k).s, poison := (quadAt gr' k).poison, errS := (quadAt gr' k).errS }

/-- Register r after the words ws are written from register d on; old is what it held. -/
def wordAfter (d : Nat) (ws : List Word) (r : Nat) (old : Word) : Word :=
  if d ≤ r then ws.getD (r - d) old else old

/-- The words that a number fills: one register, or a pair (R10). -/
def numWords (wide : Bool) (x : Nat) : List Word :=
  if wide then [loWord (BitVec.ofNat 64 x), hiWord (BitVec.ofNat 64 x)] else [BitVec.ofNat 32 x]

/-- Lane l has the words ws from v[d] on, its old registers elsewhere, and the flags fl set besides its old ones. -/
def laneWritten (gr gr' : Group) (l d : Nat) (ws : List Word) (fl : Word) : Prop :=
  (∀ r, vGet gr' l r = wordAfter d ws r (vGet gr l r)) ∧
  laneAt gr' l = { laneAt gr l with
    v := (laneAt gr' l).v, poison := (laneAt gr' l).poison, errV := (laneAt gr' l).errV,
    fflags := (laneAt gr l).fflags ||| fl }

/-- The outcome is a next state in which the split has moved on, the lanes who hold what ws and fl give them from v[d]
on, and nothing else has changed; the run ends where R17 says so. -/
def WritesLanes (s : State) (g e words : Nat) (who : List Nat) (d : Nat) (ws : Nat → List Word) (fl : Nat → Word)
    (out : Out) : Prop :=
  ∃ t, out = .next (afterRun s t g e) ∧ OnlyGroup s t g ∧ RegsOnly (groupAt s g) (groupAt t g) e words ∧
    (∀ k, quadKept (groupAt s g) (groupAt t g) k) ∧
    ∀ l, laneThere (groupAt s g) l →
      (l ∈ who → laneWritten (groupAt s g) (groupAt t g) l d (ws l) (fl l)) ∧
      (l ∉ who → laneAt (groupAt t g) l = laneAt (groupAt s g) l)

/-- As WritesLanes, for one predicate p[d] of the lanes: p0 discards the write. -/
def WritesPreds (s : State) (g e : Nat) (who : List Nat) (d : Nat) (x : Nat → Bool) (out : Out) : Prop :=
  ∃ t, out = .next (afterRun s t g e) ∧ OnlyGroup s t g ∧ RegsOnly (groupAt s g) (groupAt t g) e 1 ∧
    (∀ k, quadKept (groupAt s g) (groupAt t g) k) ∧
    ∀ l, laneThere (groupAt s g) l →
      laneAt (groupAt t g) l = { laneAt (groupAt s g) l with p := (laneAt (groupAt t g) l).p } ∧
      (∀ r, r < 16 → pGet (groupAt t g) l r =
        if l ∈ who ∧ r = d ∧ d ≠ 0 then x l else pGet (groupAt s g) l r)

/-- As WritesLanes, for the words ws from s[d] on of the quads that hold an active lane. -/
def WritesQuads (s : State) (g e words d : Nat) (ws : Nat → List Word) (out : Out) : Prop :=
  ∃ t, out = .next (afterRun s t g e) ∧ OnlyGroup s t g ∧ RegsOnly (groupAt s g) (groupAt t g) e words ∧
    ∀ k, quadThere (groupAt s g) k →
      (k ∈ actingQuads s g e → quadKeptS (groupAt s g) (groupAt t g) k ∧
        ∀ r, sGet (groupAt t g) k r = wordAfter d (ws k) r (sGet (groupAt s g) k r)) ∧
      (k ∉ actingQuads s g e → quadAt (groupAt t g) k = quadAt (groupAt s g) k)

/-- The outcome is a next state in which the split has moved on and the quads that hold an active lane have the mode
words m; nothing else has changed. -/
def WritesModes (s : State) (g e : Nat) (m : Nat → Word) (out : Out) : Prop :=
  ∃ t, out = .next (afterRun s t g e) ∧ OnlyGroup s t g ∧ RegsOnly (groupAt s g) (groupAt t g) e 1 ∧
    ∀ k, quadThere (groupAt s g) k →
      (k ∈ actingQuads s g e → quadAt (groupAt t g) k = { quadAt (groupAt s g) k with mode := m k }) ∧
      (k ∉ actingQuads s g e → quadAt (groupAt t g) k = quadAt (groupAt s g) k)

/-! ## What lanes compute -/

/-- Whether a register of kind v is a pair in lane l (Table 5.1). -/
def laneWide (gr : Group) (l : Nat) : Bool := Table.wideType (modeOf gr (l / 4))
/-- TYPE, RND, SAT of lane l's quad. -/
def laneType (gr : Group) (l : Nat) : Nat := Table.typeOf (modeOf gr (l / 4))
def laneRnd (gr : Group) (l : Nat) : Nat := Table.rndOf (modeOf gr (l / 4))
def laneSat (gr : Group) (l : Nat) : Bool := Table.satOf (modeOf gr (l / 4))
/-- A register, or pair under a 64-bit TYPE, of lane l as a number. -/
def laneNum (gr : Group) (l r : Nat) : Nat := vRead gr l r (laneWide gr l)
/-- Element i of a register or pair of lane l, as an integer under its TYPE (R38). -/
def elemInt (gr : Group) (l r i : Nat) : Int := intOf (laneType gr l) (elemAt (laneType gr l) (laneNum gr l r) i)

/-- Exact element results x i, each fitted to TYPE (R39): the packed codes and the OR of the flags. -/
def fitted (gr : Group) (l : Nat) (x : Nat → Int) : Nat × Word :=
  mapElems (laneType gr l) fun i => fitInt (laneType gr l) (laneSat gr l) (x i)

/-- Each element of floating registers gives a code and flags: f gets the format, RND and the codes of a, b and d. -/
def floated (gr : Group) (l d a b : Nat) (f : Fmt → Nat → Nat → Nat → Nat → Nat × Word) : Nat × Word :=
  let t := laneType gr l
  let code (r i : Nat) : Nat := elemAt t (vGet gr l r).toNat i
  mapElems t fun i => f ((fmtOf t).getD fp32) (laneRnd gr l) (code a i) (code b i) (code d i)

/-- Each acting lane of a one-word lane instruction of opcode op writes a number to v[d], or the pair where wide says so,
and sets flags besides those it has. -/
def WritesNums (s : State) (g e op a d : Nat) (wide : Nat → Bool) (r : Nat → Nat × Word) (out : Out) : Prop :=
  WritesLanes s g e 1 (actingLanes s g e op a) d (fun l => numWords (wide l) (r l).1) (fun l => (r l).2) out

/-! ## What transfers do -/

/-- The issuing split after it has gone to an address with its held lanes active again; arr are the checks of its arrival
there (R15). -/
def wentTo (sp : Split) (pc : DWord) (arr : List Arrive) : Split :=
  { sp with pc := pc, act := (sp.act ||| sp.rejoin) &&& lanesOfQuads sp.qmask, rejoin := 0, arrive := arr
            park := none, count := sp.count + 1 }

/-- The outcome is a next state in which split e has gone to an address and, where link names a register, the quads with
an active lane hold a return address in that pair; nothing else has changed. -/
def GoesTo (s : State) (g e : Nat) (pc : DWord) (arr : List Arrive) (link : Option (Nat × DWord)) (out : Out) : Prop :=
  let gr := groupAt s g
  ∃ t, out = .next (afterRun s t g e) ∧ OnlyGroup s t g ∧
    groupAt t g = { gr with quads := (groupAt t g).quads, splits := (groupAt t g).splits, writtenS := (groupAt t g).writtenS } ∧
    (∀ j, splitAt (groupAt t g) j = if j = e then atTimeOf (wentTo (splitAt gr e) pc arr) (splitAt (groupAt t g) e) else splitAt gr j) ∧
    ∀ k, quadThere gr k →
      match link with
      | none => quadAt (groupAt t g) k = quadAt gr k
      | some (d, ra) =>
        (k ∈ actingQuads s g e → quadKeptS gr (groupAt t g) k ∧
          ∀ r, sGet (groupAt t g) k r = wordAfter d [loWord ra, hiWord ra] r (sGet gr k r)) ∧
        (k ∉ actingQuads s g e → quadAt (groupAt t g) k = quadAt gr k)

/-- The address of the instruction after one of `words` words at the split's PC (R14). -/
def nextOf (s : State) (g e words : Nat) : DWord := let sp := splitAt (groupAt s g) e; nextAddr sp sp.pc words

/-- The outcome is a next state in which split e has parked at its instruction in a STATE of Table 6.4, and nothing else
has changed but, where the instruction closes it, the idempotent region (R126); the end of its run may regang it (R101). -/
def ParksAt (s : State) (g e : Nat) (closes : Bool) (st : SState) (p : Option Park) (out : Out) : Prop :=
  let t := modGroup s g fun gr =>
    modSplit { gr with idem := gr.idem && !closes } e fun sp => { sp with st := st, park := p, count := 0, overdue := false }
  out = .next (modGroup t g fun gr => regang gr e t.tick)

/-- No other split of a group may regang with split e. -/
def StandsAlone (gr : Group) (e : Nat) : Prop := ∀ j, j ≠ e → mayMeet (splitAt gr j) = false

/-! ## Accesses -/

/-- The role that the partition's replica table gives for the replica set of a location is read from no foreign frame (R298). -/
def RoleKnown (s : State) (p : Nat) (l : Loc) : Prop :=
  ∀ n f, l.space = .replica n → unitLoc s p ((cfgOf s p).repl + BitVec.ofNat 64 (16 * (n - p * 256))) ≠ .error (some f)

/-- The accesses of an instruction, none of which it has made yet, wait for no translation, pass every check of Table 10.2
and fit in the miss table (R145), while its cluster has no more walks than it holds (R241); loc gives each its location. -/
structure Served (v : Env) (asks : List Ask) (loc : Ask → Loc) : Prop where
  new : v.sp.park = none
  known : ∀ a ∈ asks, v.misses a = false
  ok : ∀ a ∈ asks, judgeAsk v a = .ok (loc a)
  role : ∀ a ∈ asks, RoleKnown v.s v.gr.part (loc a)
  walks : (clusterWalks v.s v.gr.part (clusterOf v.s v.g)).length ≤ 1024
  room : (v.sectors asks).length ≤ missFree v.s v.gr.part v.gr.core

/-- The outcome is a next state in which the split has moved on, each access has its request (R18) or its place in the
store queue (R155), and nothing else has changed: no register, no byte of memory. -/
def IssuesAccesses (s : State) (g e ids : Nat) (closes : Bool) (reqs : List Req) (writes : List Write) (out : Out) : Prop :=
  let gr := groupAt s g
  ∃ t, out = .next (afterRun s t g e) ∧ t = { s with groups := t.groups, nextId := s.nextId + ids } ∧
    (∀ k, k ≠ g → groupAt t k = groupAt s k) ∧
    groupAt t g = { gr with
      splits := (groupAt t g).splits, reqs := gr.reqs ++ reqs, storeQ := gr.storeQ ++ writes, idem := gr.idem && !closes } ∧
    ∀ j, splitAt (groupAt t g) j = if j = e then atTimeOf (stepPast (splitAt gr e) 1) (splitAt (groupAt t g) e) else splitAt gr j

/-- The load of lane l at an address. -/
def laneAsk (gr : Group) (l : Nat) (va : DWord) (kind : Access) (pool : Bool) : Ask :=
  let n := accessSize (modeOf gr (l / 4))
  { lane := l, who := [l], va := va, size := n, align := n, kind := kind, pool := pool
    acq := kind == .read && acquires (modeOf gr (l / 4)) }

/-- The access of quad k's sequencer: its lowest active lane makes it, every active lane takes its fault (R87). -/
def quadAsk (s : State) (g e k : Nat) (va : DWord) (kind : Access) : Ask :=
  let gr := groupAt s g
  let act := (activeLanes s g e).filter (· / 4 == k)
  let n := accessSize (modeOf gr k)
  { lane := act.headD 0, who := act, va := va, size := n, align := n, kind := kind
    acq := kind == .read && acquires (modeOf gr k) }

/-- The requests of loads, numbered from the serial number after the instruction's own. -/
def loadRequests (s : State) (g : Nat) (asks : List Ask) (loc : Ask → Loc) (file : Table.RFile) (d : Nat)
    (lanes : Ask → LaneMask) : List Req :=
  let gr := groupAt s g
  asks.mapIdx fun i a =>
    let r := loadReq s g s.nextId (modeOf gr (a.lane / 4)) a.lane a.size a.va a.acq none file d (lanes a)
    { r with
      id := s.nextId + 1 + i, what := r.what.atLoc (loc a), stage := startStage s gr.part (loc a)
      peerInc := peerIncOf s gr.part gr.core (loc a) a.va }

/-- The queued writes of stores, numbered alike; lanes are those that take the fault of each, and ordered tells whether they
keep the order of their lanes. -/
def storeWrites (s : State) (g : Nat) (asks : List Ask) (loc : Ask → Loc) (bytes : Ask → List Byte) (lanes : Ask → LaneMask)
    (ordered : Bool) : List Write :=
  let gr := groupAt s g
  asks.mapIdx fun i a =>
    { newWrite s g s.nextId (modeOf gr (a.lane / 4)) a.lane a.size a.va a.pool (.store (bytes a)) with
      id := s.nextId + 1 + i, loc := loc a, peerInc := peerIncOf s gr.part gr.core (loc a) a.va, lanes := lanes a
      ordered := ordered }

/-! ## Command queues -/

/-- A workgroup's commands once its guard slots stand as given (R186): of those that have not started, the ones at the head
whose slot holds 0 are discarded, and the first of the others is released if its slot holds 1 or it has none. -/
def queueAfter (guards : List Word) (cs : List Command) : List Command :=
  let slot (c : Command) : Word := if c.guard = 255 then 1 else nth 2 guards c.guard
  let waiting := cs.filter fun c => !c.started
  let gone := waiting.takeWhile fun c => !c.released && slot c == 0
  let next := (waiting.drop gone.length).head?
  (cs.filter fun c => !(gone.any (·.id == c.id))).map fun c =>
    if next.any (·.id == c.id) && slot c == 1 then { c with released := true } else c

/-! ## Memories -/

/-- Every memory of the machine is in canonical form. -/
def memoriesWf (s : State) : Bool :=
  memWf s.hbm && memWf s.cap && memWf s.host && memWf s.peer && memWf s.replica && s.gangs.all fun gg => memWf gg.pool

/-- Every byte of every memory reads in t as in s. -/
def SameMemory (s t : State) : Prop := ∀ l, homeByte t l = homeByte s l

end Sys2Proof.Machine
end

