-- ==== Sys2Proof/Certificates/Slice0/Obligations.lean ====
section
/-!
DEFINITION. The statements about the model, each a proposition that formalises rules of the spec. Those that rest on a
choice of the model say so and name the entry of the assumption log.
-/

open Sys2Proof Sys2Proof.Machine


/-! ## Integer, logic and copies of lanes -/

/-- R63, R64, R72 with R39: each element is computed exactly and fitted once; nothing but v[D] and the flags of the
acting lanes changes. -/
def Obligations.LaneArithmeticFits : Prop :=
  ∀ (s : State) (g e : Nat) (d a b : Byte),
    let gr := groupAt s g
    let A := fun l => elemInt gr l a.toNat
    let B := fun l => elemInt gr l b.toNat
    let D := fun l => elemInt gr l d.toNat
    let done (op : Nat) (x : Nat → Nat → Int) (i : Instr) : Prop :=
      Clear s g e op d.toNat a.toNat b.toNat →
        WritesNums s g e op a.toNat d.toNat (laneWide gr) (fun l => fitted gr l (x l)) (exec i s)
    done 0x20 (fun l i => A l i + B l i) (.add d a b) ∧
    done 0x21 (fun l i => A l i - B l i) (.sub d a b) ∧
    done 0x22 (fun l i => A l i * B l i) (.mul d a b) ∧
    done 0x23 (fun l i => A l i * B l i / 2 ^ elemBits (laneType gr l)) (.mulh d a b) ∧
    done 0x24 (fun l i => A l i * B l i + D l i) (.mad d a b) ∧
    done 0x25 (fun l i => min (A l i) (B l i)) (.min d a b) ∧
    done 0x26 (fun l i => max (A l i) (B l i)) (.max d a b) ∧
    done 0x35 (fun l i => A l i + b.toInt) (.addi d a b)

/-- R65: bitwise operations and MOV are 64 bits wide on pairs under i64 and u64, else 32; they set no flag. -/
def Obligations.LogicAndCopies : Prop :=
  ∀ (s : State) (g e : Nat) (d a b : Byte),
    let gr := groupAt s g
    let A := fun l => laneNum gr l a.toNat
    let B := fun l => laneNum gr l b.toNat
    let done (op : Nat) (x : Nat → Nat) (i : Instr) : Prop :=
      Clear s g e op d.toNat a.toNat b.toNat →
        WritesNums s g e op a.toNat d.toNat (laneWide gr) (fun l => (x l, 0)) (exec i s)
    done 0x27 (fun l => A l &&& B l) (.and d a b) ∧
    done 0x28 (fun l => A l ||| B l) (.or d a b) ∧
    done 0x29 (fun l => A l ^^^ B l) (.xor d a b) ∧
    done 0x2A (fun l => A l ^^^ (A l &&& B l)) (.andn d a b) ∧
    done 0x39 A (.mov d a b)

/-- R69: SEL is not guarded; the guard selects v[A] or v[B] in every active lane, and no flag is set. -/
def Obligations.SelectWritesEveryLane : Prop :=
  ∀ (s : State) (g e : Nat) (d a b : Byte), Clear s g e 0x33 d.toNat a.toNat b.toNat →
    let gr := groupAt s g
    WritesLanes s g e 1 (activeLanes s g e) d.toNat
      (fun l => numWords (laneWide gr l) (laneNum gr l (if guardOn gr l then a.toNat else b.toNat))) (fun _ => 0)
      (exec (.sel d a b) s)

/-- R66: shifts by v[B][5:0] or by the field B; SHL fits the product by 2^n, SHR fills with zeros, SAR with the top bit
of the element whatever its signedness. R67, R68: BFE takes m bits of v[A] from bit s on, extended under a signed TYPE;
BFI replaces them in v[D]; POPC and CLZ write a single register, BREV the reversed bits. -/
def Obligations.ShiftsAndBitFields : Prop :=
  (∀ (s : State) (g e : Nat) (d a b : Byte),
     let gr := groupAt s g
     let t := laneType gr
     let byReg := fun l => (vGet gr l b.toNat).toNat % 64
     let byField := fun (_ : Nat) => b.toNat
     let left := fun (n : Nat → Nat) l => fitted gr l fun i => elemInt gr l a.toNat i * 2 ^ n l
     let right := fun (n : Nat → Nat) l => mapElems (t l) fun i => (elemAt (t l) (laneNum gr l a.toNat) i / 2 ^ n l, 0)
     let signed := fun (n : Nat → Nat) l => mapElems (t l) fun i =>
       let x := BitVec.ofNat (elemBits (t l)) (elemAt (t l) (laneNum gr l a.toNat) i)
       ((x.sshiftRight (n l)).toNat, 0)
     let done (op : Nat) (x : Nat → Nat × Word) (i : Instr) : Prop :=
       Clear s g e op d.toNat a.toNat b.toNat →
         WritesNums s g e op a.toNat d.toNat (laneWide gr) x (exec i s)
     done 0x2B (left byReg) (.shl d a b) ∧ done 0x2C (right byReg) (.shr d a b) ∧ done 0x2D (signed byReg) (.sar d a b) ∧
     done 0x36 (left byField) (.shli d a b) ∧ done 0x37 (right byField) (.shri d a b) ∧
     done 0x38 (signed byField) (.sari d a b)) ∧
  (∀ (s : State) (g e : Nat) (d a b : Byte),
     let gr := groupAt s g
     let W := fun l => elemBits (laneType gr l)
     let A := fun l => laneNum gr l a.toNat
     let D := fun l => laneNum gr l d.toNat
     let ctl := fun l => (vGet gr l b.toNat).toNat
     let st := fun l => ctl l % 64
     let len := fun l => if st l < W l then min (ctl l / 256 % 128) (W l - st l) else 0
     let field := fun l => A l / 2 ^ st l % 2 ^ len l
     let ones := fun l => ((List.range (W l)).filter fun i => (A l).testBit i).length
     let done (op : Nat) (wide : Nat → Bool) (x : Nat → Nat) (i : Instr) : Prop :=
       Clear s g e op d.toNat a.toNat b.toNat →
         WritesNums s g e op a.toNat d.toNat wide (fun l => (x l, 0)) (exec i s)
     done 0x2E (laneWide gr) (fun l => if isSigned (laneType gr l) && (field l).testBit (len l - 1) && len l != 0
       then field l + 2 ^ W l - 2 ^ len l else field l) (.bfe d a b) ∧
     done 0x2F (laneWide gr) (fun l =>
       D l % 2 ^ st l + A l % 2 ^ len l * 2 ^ st l + D l / 2 ^ (st l + len l) * 2 ^ (st l + len l)) (.bfi d a b) ∧
     done 0x30 (fun _ => false) ones (.popc d a b) ∧
     done 0x31 (fun _ => false) (fun l => if A l = 0 then W l else W l - 1 - Nat.log2 (A l)) (.clz d a b) ∧
     done 0x32 (laneWide gr) (fun l => (((List.range (W l)).filter fun i => (A l).testBit i).map
       fun i => 2 ^ (W l - 1 - i)).sum) (.brev d a b))

/-- R71 with R70: CMP and FCMP write the condition to p[D[3:0]] of each acting lane; SCMP compares the quad's registers
and writes every active lane, whatever its guard (R85). A write to p0 is discarded (R11). -/
def Obligations.ComparesWritePredicates : Prop :=
  ∀ (s : State) (g e : Nat) (d a b : Byte),
    let gr := groupAt s g
    let p := d.toNat % 16
    let cc := d.toNat / 16
    (Clear s g e 0x34 d.toNat a.toNat b.toNat →
      WritesPreds s g e (actingLanes s g e 0x34 a.toNat) p
        (fun l => condInt cc (isSigned (laneType gr l)) (elemBits (laneType gr l)) (laneNum gr l a.toNat)
          (laneNum gr l b.toNat)) (exec (.cmp d a b) s)) ∧
    (Clear s g e 0x47 d.toNat a.toNat b.toNat →
      WritesPreds s g e (actingLanes s g e 0x47 a.toNat) p
        (fun l => condF cc (vGet gr l a.toNat).toNat (vGet gr l b.toNat).toNat) (exec (.fcmp d a b) s)) ∧
    (Clear s g e 0x60 d.toNat a.toNat b.toNat →
      WritesPreds s g e (activeLanes s g e) p
        (fun l => condSeq cc (sGet gr (l / 4) a.toNat) (sGet gr (l / 4) b.toNat)) (exec (.scmp d a b) s))

/-- R73, R74, R88: MOVI, MOVH, LIT and BCAST write one register, LEA and ADDX a pair, modulo 2^64; none sets a flag. -/
def Obligations.ImmediatesAndAddresses : Prop :=
  ∀ (s : State) (g e : Nat) (d a b : Byte) (lit : Word),
    let gr := groupAt s g
    let pair := fun (x : DWord) => [loWord x, hiWord x]
    let size := fun l => Table.sizeOf' (Table.msizeOf (modeOf gr (l / 4)))
    let done (op words : Nat) (x : Nat → List Word) (i : Instr) : Prop :=
      Clear s g e op d.toNat a.toNat b.toNat →
        WritesLanes s g e words (actingLanes s g e op a.toNat) d.toNat x (fun _ => 0) (exec i s)
    done 0x3A 1 (fun _ => [(a ++ b).signExtend 32]) (.movi d a b) ∧
    done 0x3B 1 (fun l => [a ++ b ++ (vGet gr l d.toNat).setWidth 16]) (.movh d a b) ∧
    done 0x3C 2 (fun _ => [lit]) (.lit d a b lit) ∧
    done 0x67 1 (fun l => [sGet gr (l / 4) a.toNat]) (.bcast d a b) ∧
    done 0x3D 1 (fun l => pair (sPair gr (l / 4) a.toNat + zext (vGet gr l b.toNat) * BitVec.ofNat 64 (size l)))
      (.lea d a b) ∧
    done 0x3E 1 (fun l => pair (vPair gr l a.toNat + zext (vGet gr l b.toNat))) (.addx d a b)

/-! ## Floating point -/

/-- R75, R76: one rounding of the exact result under the quad's RND; FMIN and FMAX pick an operand and set no flag. -/
def Obligations.FloatArithmetic : Prop :=
  ∀ (s : State) (g e : Nat) (d a b : Byte),
    let gr := groupAt s g
    let done (op : Nat) (f : Fmt → Nat → Nat → Nat → Nat → Nat × Word) (i : Instr) : Prop :=
      Clear s g e op d.toNat a.toNat b.toNat →
        WritesNums s g e op a.toNat d.toNat (fun _ => false) (fun l => floated gr l d.toNat a.toNat b.toNat f) (exec i s)
    done 0x40 (fun f rnd x y _ => deliver f rnd (addF rnd (decodeF f x) (decodeF f y))) (.fadd d a b) ∧
    done 0x41 (fun f rnd x y _ => deliver f rnd (addF rnd (decodeF f x) (negF (decodeF f y)))) (.fsub d a b) ∧
    done 0x42 (fun f rnd x y _ => deliver f rnd
      (match mulF (decodeF f x) (decodeF f y) with | none => .nan true | some p => exactOf p)) (.fmul d a b) ∧
    done 0x43 (fun f rnd x y z => deliver f rnd (fmaF rnd false (decodeF f x) (decodeF f y) (decodeF f z))) (.fma d a b) ∧
    done 0x44 (fun f rnd x y z => deliver f rnd (fmaF rnd true (decodeF f x) (decodeF f y) (decodeF f z))) (.fnma d a b) ∧
    done 0x45 (fun f _ x y _ => (minMaxF f false x y, 0)) (.fmin d a b) ∧
    done 0x46 (fun f _ x y _ => (minMaxF f true x y, 0)) (.fmax d a b)

/-- R77 to R82: RSQ, RCP, EX2, LG2, FRND, FCLS, the conversions and TWOS write their results with their flags; the flags
of RCP below 2^-128, of an infinity to E4M3 and of an integer conversion out of range are DEDUCED (log entry 50). -/
def Obligations.FloatFunctionsAndConversions : Prop :=
  ∀ (s : State) (g e : Nat) (d a b : Byte),
    let gr := groupAt s g
    let A := fun l => (vGet gr l a.toNat).toNat
    let m := fun l => modeOf gr (l / 4)
    let codes := fun (l nd : Nat) (src : List Nat) => convertSeq (laneType gr l) b.toNat nd (m l) src
    let packed := fun (r : List Nat × Word) => (packElems b.toNat r.1, r.2)
    let done (op : Nat) (wide : Bool) (x : Nat → Nat × Word) (i : Instr) : Prop :=
      Clear s g e op d.toNat a.toNat b.toNat →
        WritesNums s g e op a.toNat d.toNat (fun _ => wide) x (exec i s)
    let one (f : Fmt → Nat → Nat → Nat × Word) := fun l => floated gr l d.toNat a.toNat b.toNat fun fm rnd x _ _ => f fm rnd x
    done 0x48 false (one fun _ _ x => rsqF x) (.rsq d a b) ∧
    done 0x49 false (one fun _ _ x => rcpF x) (.rcp d a b) ∧
    done 0x4A false (one fun _ _ x => ex2F x) (.ex2 d a b) ∧
    done 0x4B false (one fun _ _ x => lg2F x) (.lg2 d a b) ∧
    done 0x4C false (one fun f rnd x => frndF f rnd x) (.frnd d a b) ∧
    done 0x4D false (one fun f _ x => (classOf f x, 0)) (.fcls d a b) ∧
    done 0x4E false (fun l => packed (codes l (elemCount b.toNat) (elemsOf (laneType gr l) (A l)))) (.cvt d a b) ∧
    done 0x4F false (fun l => packed (codes l (elemCount b.toNat)
      (if laneWide gr l then [(vPair gr l a.toNat).toNat]
        else elemsOf (laneType gr l) (A l) ++ elemsOf (laneType gr l) (vGet gr l (a.toNat + 1)).toNat))) (.cvtn d a b) ∧
    done 0x50 true (fun l => packed (codes l
      (if b.toNat = 12 ∨ b.toNat = 13 then 1 else 2 * elemCount b.toNat) (elemsOf (laneType gr l) (A l)))) (.cvtw d a b) ∧
    (Clear s g e 0x51 d.toNat a.toNat b.toNat →
      WritesLanes s g e 1 (actingLanes s g e 0x51 a.toNat) d.toNat
        (fun l =>
          let (x, t) := twoSum (A l) (vGet gr l b.toNat).toNat
          [BitVec.ofNat 32 x, if notFinite x then 0 else BitVec.ofNat 32 t])
        (fun l => (deliver fp32 0 (addF 0 (decodeF fp32 (A l)) (decodeF fp32 (vGet gr l b.toNat).toNat))).2
          &&& (flInvalid ||| flOverflow))
        (exec (.twos d a b) s))

/-! ## The sequencer and exchange between lanes -/

/-- R84, R86: each quad that holds an active lane computes on its own registers; a shift count of 32 or more gives 0.
R89: RDLN reads a live lane's register into the sequencer; a dead or exited lane reads 0, and the active lanes of the
quad set the dead-read flag (R127). -/
def Obligations.SequencerComputes : Prop :=
  (∀ (s : State) (g e : Nat) (d a b : Byte) (lit : Word),
     let gr := groupAt s g
     let A := fun k => sGet gr k a.toNat
     let B := fun k => sGet gr k b.toNat
     let done (op words : Nat) (x : Nat → List Word) (i : Instr) : Prop :=
       Clear s g e op d.toNat a.toNat b.toNat → WritesQuads s g e words d.toNat x (exec i s)
     done 0x58 1 (fun k => [A k + B k]) (.sadd d a b) ∧
     done 0x59 1 (fun k => [A k - B k]) (.ssub d a b) ∧
     done 0x5A 1 (fun k => [A k * B k]) (.smul d a b) ∧
     done 0x5B 1 (fun k => [A k &&& B k]) (.sand d a b) ∧
     done 0x5C 1 (fun k => [A k ||| B k]) (.sor d a b) ∧
     done 0x5D 1 (fun k => [A k ^^^ B k]) (.sxor d a b) ∧
     done 0x5E 1 (fun k => [A k <<< ((B k).toNat % 64)]) (.sshl d a b) ∧
     done 0x5F 1 (fun k => [A k >>> ((B k).toNat % 64)]) (.sshr d a b) ∧
     done 0x61 1 (fun k => [A k]) (.smov d a b) ∧
     done 0x62 1 (fun _ => [(a ++ b).signExtend 32]) (.smovi d a b) ∧
     done 0x63 2 (fun _ => [lit]) (.slit d a b lit) ∧
     done 0x64 1 (fun k =>
       let x := sPair gr k a.toNat + zext (B k)
       [loWord x, hiWord x]) (.saddx d a b)) ∧
  (∀ (s : State) (g e : Nat) (d a b : Byte), Clear s g e 0x68 d.toNat a.toNat b.toNat →
     let gr := groupAt s g
     ((∀ k ∈ actingQuads s g e, laneLive gr (4 * k + b.toNat) = true) →
       WritesQuads s g e 1 d.toNat (fun k => [vGet gr (4 * k + b.toNat) a.toNat]) (exec (.rdln d a b) s)) ∧
     ∃ t, exec (.rdln d a b) s = .next (afterRun s t g e) ∧ OnlyGroup s t g ∧ RegsOnly gr (groupAt t g) e 1 ∧
       ∀ k ∈ actingQuads s g e, quadThere gr k → laneLive gr (4 * k + b.toNat) = false →
         (∀ r, sGet (groupAt t g) k r = if r = d.toNat then 0 else sGet gr k r) ∧
         ∀ j ∈ activeLanes s g e, j / 4 = k → laneThere gr j →
           laneAt (groupAt t g) j = { laneAt gr j with fflags := (laneAt gr j).fflags ||| flDeadRead })

/-- R127 to R130: every acting lane takes v[A] of its source lane as it stood before the instruction; a lane that has
died or exited gives 0 with the dead-read flag, and SHUP gives 0 without a flag below lane B. The value above the source
quad's allocation is the model's free value (log entry 9). R131, R132: VOTE gives every quad the mask of the active
lanes, helper lanes apart, whose p[A] is 1; VTST writes any, all or all-equal of them to p[D] of the acting lanes. -/
def Obligations.LanesExchange : Prop :=
  (∀ (s : State) (g e : Nat) (d a b : Byte),
     let gr := groupAt s g
     let n := 4 * gr.quads.length
     let from' (l j : Nat) : Nat := if j < n then j else l
     let taken := fun (j : Nat) => if laneLive gr j then
         (if a.toNat < (quadAt gr (j / 4)).alloc then vGet gr j a.toNat else Config.beyondAlloc s.tick j a.toNat, (0 : Word))
       else (0, flDeadRead)
     let done (op : Nat) (r : Nat → Word × Word) (i : Instr) : Prop :=
       Clear s g e op d.toNat a.toNat b.toNat →
         WritesLanes s g e 1 (actingLanes s g e op a.toNat) d.toNat (fun l => [(r l).1]) (fun l => (r l).2) (exec i s)
     done 0x70 (fun l => taken (l / 4 * 4 + b.toNat / 4 ^ (l % 4) % 4)) (.qswz d a b) ∧
     done 0x71 (fun l => taken (from' l (vGet gr l b.toNat).toNat)) (.shfl d a b) ∧
     done 0x72 (fun l => taken (from' l (BitVec.ofNat 32 l ^^^ vGet gr l b.toNat).toNat)) (.shfx d a b) ∧
     done 0x73 (fun l => if l < b.toNat then (0, 0) else taken (l - b.toNat)) (.shup d a b)) ∧
  (∀ (s : State) (g e : Nat) (d a b : Byte),
     let gr := groupAt s g
     let real := (activeLanes s g e).filter fun l => !(laneAt gr l).helper
     let yes := real.filter fun l => pGet gr l (a.toNat % 16)
     (Clear s g e 0x74 d.toNat a.toNat b.toNat →
       WritesQuads s g e 1 d.toNat (fun _ => [loWord (maskOf 64 yes), hiWord (maskOf 64 yes)]) (exec (.vote d a b) s)) ∧
     (Clear s g e 0x75 d.toNat a.toNat b.toNat →
       WritesPreds s g e (actingLanes s g e 0x75 a.toNat) (d.toNat % 16)
         (fun _ => if b.toNat = 0 then decide (yes ≠ [])
           else if b.toNat = 1 then decide (yes.length = real.length)
           else decide (yes = [] ∨ yes.length = real.length)) (exec (.vtst d a b) s)))

/-! ## Modes, special registers, traps -/

/-- R24, R25, R27: NOP changes nothing; MODE sets the whole mode word and GRD its guard bits in the quads that hold an
active lane. The fields of MODE that Table 2.4 reserves are not set by it (R25). R26: MODX replaces the fields that its
mask selects with those of s[A]; s[D], unless D is 0xFF, receives the old mode word. -/
def Obligations.ModeWordsChange : Prop :=
  (∀ (s : State) (g e : Nat) (d a b : Byte),
     let gr := groupAt s g
     (Clear s g e 0x00 d.toNat a.toNat b.toNat →
       WritesModes s g e (fun k => modeOf gr k) (exec (.nop d a b) s)) ∧
     (Clear s g e 0x10 d.toNat a.toNat b.toNat → Table.reservedMode (d ++ a ++ b |>.setWidth 32) = false →
       WritesModes s g e (fun _ => (d ++ a ++ b).setWidth 32) (exec (.mode d a b) s)) ∧
     (Clear s g e 0x12 d.toNat a.toNat b.toNat →
       WritesModes s g e (fun k => (modeOf gr k).extractLsb' 5 27 ++ b.extractLsb' 0 5) (exec (.grd d a b) s))) ∧
  (∀ (s : State) (g e : Nat) (d a b : Byte), Clear s g e 0x11 d.toNat a.toNat b.toNat →
     let gr := groupAt s g
     let m := fieldMask b.toNat
     let new := fun k => (modeOf gr k &&& ~~~m) ||| (sGet gr k a.toNat &&& m)
     (∀ k ∈ actingQuads s g e,
       (sGet gr k a.toNat).extractLsb' 24 8 = 0 ∧ Table.reservedMode (new k) = false) →
     ∃ t, exec (.modx d a b) s = .next (afterRun s t g e) ∧ OnlyGroup s t g ∧ RegsOnly gr (groupAt t g) e 1 ∧
       ∀ k, quadThere gr k → k ∈ actingQuads s g e →
         modeOf (groupAt t g) k = new k ∧
         ∀ r, sGet (groupAt t g) k r = if r = d.toNat ∧ d ≠ 255 then modeOf gr k else sGet gr k r)

/-- R28: GETS writes a special register of each acting lane to its v[D] (A[0] = 0), or that of the lowest active lane of
each quad to s[D]; %fflags is cleared in the lanes read where A[1] is set. R23, R267: a reading of %time or %cycle never
goes back: the timestamp, or the cycle count of the core, first moves on by a free amount (log entry 8), and the lanes
get what it then holds; for %time what the core's copy holds, within 2 ns of the timestamp, or what one of them has read
before where that is more. R255: SETS writes %late of the workgroup, or %fflags, %fault and %faddr of each acting lane.
-/
def Obligations.SpecialRegisters : Prop :=
  (∀ (s : State) (g e : Nat) (d a b : Byte), Clear s g e 0x15 d.toNat a.toNat b.toNat → b ≠ 12 → b ≠ 13 →
     let gr := groupAt s g
     let x := fun l => special s g e l b.toNat s.now (coreAt s gr.part gr.core).cycle
     let words := fun (x : DWord) => if Table.specialWide b.toNat then [loWord x, hiWord x] else [loWord x]
     (a.toNat = 0 → WritesLanes s g e 1 (actingLanes s g e 0x15 a.toNat) d.toNat (fun l => words (x l)) (fun _ => 0)
       (exec (.gets d a b) s)) ∧
     (a.toNat = 1 → WritesQuads s g e 1 d.toNat
       (fun k => words (x (((activeLanes s g e).filter (· / 4 == k)).headD 0))) (exec (.gets d a b) s)) ∧
     (a.toNat = 2 → ∃ t, exec (.gets d a b) s = .next (afterRun s t g e) ∧
       ∀ l ∈ actingLanes s g e 0x15 a.toNat, laneThere gr l →
         vGet (groupAt t g) l d.toNat = (laneAt gr l).fflags ∧ (laneAt (groupAt t g) l).fflags = 0) ∧
     (a.toNat = 3 → ∃ t, exec (.gets d a b) s = .next (afterRun s t g e) ∧
       ∀ k ∈ actingQuads s g e, quadThere gr k →
         let l := ((activeLanes s g e).filter (· / 4 == k)).headD 0
         laneThere gr l →
           sGet (groupAt t g) k d.toNat = (laneAt gr l).fflags ∧ (laneAt (groupAt t g) l).fflags = 0)) ∧
  (∀ (s : State) (g e : Nat) (d a b : Byte), Clear s g e 0x15 d.toNat a.toNat b.toNat → a = 0 →
     let gr := groupAt s g
     let holds (t : State) (x : Nat) : Prop := ∀ l ∈ actingLanes s g e 0x15 0, laneThere gr l →
       vPair (groupAt t g) l d.toNat = BitVec.ofNat 64 x
     (b = 12 → ∃ t x, exec (.gets d a b) s = .next (afterRun s t g e) ∧ s.now ≤ t.now ∧ holds t x ∧ t.now ≤ x + 2 ∧
       (x ≤ t.now + 2 ∨ ∃ l ∈ actingLanes s g e 0x15 0, x = (laneAt gr l).time) ∧
       ∀ l ∈ actingLanes s g e 0x15 0, (laneAt gr l).time ≤ x ∧
         (laneThere gr l → (laneAt (groupAt t g) l).time = x)) ∧
     (b = 13 → coreKey s gr.part gr.core < s.cores.length → ∃ t, exec (.gets d a b) s = .next (afterRun s t g e) ∧
       (coreAt s gr.part gr.core).cycle ≤ (coreAt t gr.part gr.core).cycle ∧ holds t (coreAt t gr.part gr.core).cycle)) ∧
  (∀ (s : State) (g e : Nat) (d a b : Byte), Clear s g e 0x16 d.toNat a.toNat b.toNat →
     let gr := groupAt s g
     let lanes (new : Nat → Lane) : Prop :=
       ∃ t, exec (.sets d a b) s = .next (afterRun s t g e) ∧ OnlyGroup s t g ∧ RegsOnly gr (groupAt t g) e 1 ∧
         ∀ l, laneThere gr l → laneAt (groupAt t g) l =
           if l ∈ actingLanes s g e 0x16 a.toNat then new l else laneAt gr l
     (d = 16 → ∃ t, exec (.sets d a b) s = .next (afterRun s t g e) ∧
       (∀ w, wgAt t w = if w = gr.wg ∧ w < s.wgs.length
         then { wgAt s w with late := sGet gr ((actingQuads s g e).headD 0) b.toNat } else wgAt s w) ∧
       t = { s with wgs := t.wgs, groups := t.groups }) ∧
     (d = 17 → lanes fun l => { laneAt gr l with fflags := vGet gr l b.toNat &&& 127 }) ∧
     (d = 20 → lanes fun l => { laneAt gr l with fault := vGet gr l b.toNat }) ∧
     (d = 21 → lanes fun l => { laneAt gr l with faddr := vPair gr l b.toNat }))

/-- R126: IDEM, in a group with one valid split, no open region and no handler, makes its own address the restart
address and forgets which registers were written; at the address at which a restart resumed the count of restarts stays
(DEDUCED, log entry 30). R328, R126, R329: RESTART of a group whose results and stores are done, with no trap frame,
puts its live lanes in one split at the restart point with no region; every vector register keeps its value but for
errored words of marked registers, which become zero. -/
def Obligations.RestartPoints : Prop :=
  (∀ (s : State) (g e : Nat) (d a b : Byte), Clear s g e 0x0F d.toNat a.toNat b.toNat →
     let gr := groupAt s g
     (gr.splits.filter (·.valid)).length = 1 → gr.regions = [] → gr.frame = none →
     ∃ t, exec (.idem d a b) s = .next (afterRun s t g e) ∧ OnlyGroup s t g ∧
       groupAt t g = { gr with
         restart := (splitAt gr e).pc, idem := true, resumed := false, regionMma := 0, writtenV := [], writtenS := []
         writtenP := [], splits := (groupAt t g).splits
         restarts := if gr.resumed && gr.restart == (splitAt gr e).pc then gr.restarts else 0 } ∧
       splitAt (groupAt t g) e = atTimeOf (stepPast (splitAt gr e) 1) (splitAt (groupAt t g) e)) ∧
  (∀ (s : State) (g : Nat),
     let gr := groupAt s g
     gr.restarting = true → gr.gone = false → groupCounts gr = true → restartQuiet s g = true → gr.frame = none →
     ∃ t, exec (.restart g) s = .next t ∧ (groupAt t g).restarting = false ∧ (groupAt t g).regions = [] ∧
       (quadsOfLanes (liveMask gr) ≠ 0 → (splitAt (groupAt t g) 0).valid = true ∧ (splitAt (groupAt t g) 0).pc = gr.restart ∧
         (splitAt (groupAt t g) 0).act = liveMask gr ∧ (splitAt (groupAt t g) 0).qmask = quadsOfLanes (liveMask gr)) ∧
       (∀ e, 0 < e → (splitAt (groupAt t g) e).valid = false) ∧
       ∀ l r, vGet (groupAt t g) l r =
         if (laneAt gr l).errV.contains r && gr.writtenV.contains r then 0 else vGet gr l r)

/-- R247, R248: lanes of an ordinary split whose handler is free, in a group with no open region and a handler vector:
the lanes record their codes, and the handler split stands in entry 8 at the vector's entry with those lanes active,
mode word 0 in its quads, and s48 to s55 holding the frame's address, the faulting PC, ARG, the lanes and 0. -/
def Obligations.TrapEntersHandler : Prop :=
  ∀ (s : State) (g : Nat) (r : Raise),
    let gr := groupAt s g
    let t := trapEntry s g r
    let lanes := r.lanes.map (·.1)
    (splitAt gr r.entry).valid = true → r.entry < 8 → gr.splits.length = 9 → gr.frame = none → gr.regions = [] →
    (handlerVector s g).1 ≠ 0 → r.lanes ≠ [] →
    (∀ l ∈ lanes, l < 64 ∧ laneThere gr l ∧ (splitAt gr r.entry).qmask.getLsbD (l / 4) = true) → lanes.Nodup →
      (∀ f ∈ r.lanes, (laneAt (groupAt t g) f.1).fault = BitVec.ofNat 32 f.2.1 ∧ (laneAt (groupAt t g) f.1).faddr = f.2.2) ∧
      (splitAt (groupAt t g) 8).valid = true ∧ (splitAt (groupAt t g) 8).handler = true ∧
      (splitAt (groupAt t g) 8).pc = entryPc (handlerVector s g).1 ∧ (splitAt (groupAt t g) 8).act = maskOf 64 lanes ∧
      (∃ f, (groupAt t g).frame = some f ∧ f.fpc = r.fpc ∧ f.flanes = maskOf 64 lanes ∧ f.va = frameVa s g) ∧
      ∀ k ∈ bitsOf (splitAt (groupAt t g) 8).qmask, quadThere gr k →
        modeOf (groupAt t g) k = 0 ∧ sPair (groupAt t g) k 48 = frameVa s g ∧ sPair (groupAt t g) k 50 = r.fpc ∧
        sPair (groupAt t g) k 52 = (handlerVector s g).2 ∧
        sGet (groupAt t g) k 54 = ((maskOf 64 lanes).extractLsb' (4 * k) 4).setWidth 32 ∧ sGet (groupAt t g) k 55 = 0

/-- R254 with R247: TRAP raises code 18 with B as its address in the acting lanes, whose handler split then stands in
entry 8; without an acting lane it does nothing. R30: a word with an unassigned opcode is no instruction: code 5 with
the PC in every active lane. -/
def Obligations.TrappingWords : Prop :=
  (∀ (s : State) (g e : Nat) (d a b : Byte), Clear s g e 0x13 d.toNat a.toNat b.toNat →
     let gr := groupAt s g
     let lanes := actingLanes s g e 0x13 a.toNat
     (lanes = [] → exec (.trap d a b) s = .next (afterRun s
       (ran s (modGroup s g fun gr => modSplit gr e (stepPast · 1)) g e 0x13 d.toNat a.toNat b.toNat) g e)) ∧
     (lanes ≠ [] → groupCounts gr = true → e < 8 → gr.frame = none → (handlerVector s g).1 ≠ 0 → gr.splits.length = 9 →
       ∃ t, exec (.trap d a b) s = .next t ∧
         (∀ l ∈ lanes, laneThere gr l →
           (laneAt (groupAt t g) l).fault = 18 ∧ (laneAt (groupAt t g) l).faddr = BitVec.ofNat 64 b.toNat) ∧
         (splitAt (groupAt t g) 8).valid = true ∧ (splitAt (groupAt t g) 8).act = maskOf 64 lanes ∧
         (splitAt (groupAt t g) 8).pc = entryPc (handlerVector s g).1)) ∧
  (∀ (s : State) (g e : Nat) (w : Word),
     let gr := groupAt s g
     let sp := splitAt gr e
     s.cur = some (g, e) → sp.valid = true → sp.act ≠ 0 → sp.marked = [] → groupCounts gr = true → e < 8 → gr.frame = none →
     (handlerVector s g).1 ≠ 0 → (Table.row (w.extractLsb' 24 8).toNat).isNone →
       ∃ t, exec (.unassignedOpcode w) s = .next t ∧ ∀ l ∈ activeLanes s g e, laneThere gr l →
         (laneAt (groupAt t g) l).fault = 5 ∧ (laneAt (groupAt t g) l).faddr = sp.pc)

/-- R252, Table 15.4: RETT of a handler whose results and stores are done, with the stores that its lanes have seen,
gives its quads the mode words and s48 to s63 of the frame, frees entry 8, and forms the return split in the return
entry: at the faulting instruction (D = 0), or past it (D = 1). -/
def Obligations.ReturnFromHandler : Prop :=
  ∀ (s : State) (g : Nat) (d a b : Byte) (f : Frame), Clear s g 8 0x14 d.toNat a.toNat b.toNat →
    let gr := groupAt s g
    let sp := splitAt gr 8
    gr.frame = some f → sp.inner = f.inner → f.rentry < 8 → gr.splits.length = 9 → gr.regions = [] → gr.waiting = [] →
    f.resume = .plain → f.flanes &&& liveMask gr ≠ 0 → sp.qmask ≠ 0 →
    splitAwaits gr 8 = false → groupDrained s g = true → clusterPerformed s g = true → (∀ l ∈ bitsOf sp.act, (laneAt gr l).mark = none) →
    (∀ k ∈ bitsOf sp.qmask, Table.reservedMode (frameMode s g k) = false) →
    ∃ t, exec (.rett d a b) s = .next t ∧ (groupAt t g).frame = none ∧ (splitAt (groupAt t g) 8).valid = false ∧
      (∀ k ∈ bitsOf sp.qmask, quadThere gr k → modeOf (groupAt t g) k = frameMode s g k ∧
        ∀ i, i < 16 → sGet (groupAt t g) k (48 + i) =
          BitVec.ofNat 32 (leNat (((frameBytes s g (0x80 + 64 * k) 64).drop (4 * i)).take 4))) ∧
      ((d = 0 → (splitAt (groupAt t g) f.rentry).pc = f.fpc ∧
          (splitAt (groupAt t g) f.rentry).act = f.flanes &&& liveMask gr ∧
          (splitAt (groupAt t g) f.rentry).rejoin = f.wlanes &&& liveMask gr) ∧
        (d = 1 → (splitAt (groupAt t g) f.rentry).pc = f.next ∧ (splitAt (groupAt t g) f.rentry).rejoin = 0 ∧
          (splitAt (groupAt t g) f.rentry).act = (f.flanes &&& liveMask gr) ||| (f.wlanes &&& liveMask gr)))

/-- R35: an instruction that fails a check takes one fault, of the first check that it fails: 6 for privilege, 5 for its
fields, 10 for a register or 16 for a mode word that it does not admit in any of its quads, 4 for a pending register.
Every lane that R35 names records it (for codes 10 and 4 of MRD and MWR every active lane, as R207 says), and nothing
but FAULT and FADDR changes in those lanes. That R207 goes before the guard of MRD and MWR is log entry 61. -/
def Obligations.ChecksInOrder : Prop :=
  ∀ (s : State) (g e : Nat) (i : Instr) (op : Nat) (d a b : Byte), i.parts = some (op, d, a, b) →
    let gr := groupAt s g
    let sp := splitAt gr e
    let r := (Table.row op).getD {}
    let lanes := takers s g e op a.toNat
    let takes (lanes : List Nat) (code : Nat) (addr : DWord) : Prop :=
      ∃ t, exec i s = .next t ∧ ∀ l ∈ lanes, laneThere gr l →
        laneAt (groupAt t g) l = { laneAt gr l with fault := BitVec.ofNat 32 code, faddr := addr }
    s.cur = some (g, e) → sp.valid = true → sp.marked = [] → groupCounts gr = true → e < 8 → gr.frame = none →
    (handlerVector s g).1 ≠ 0 → lanes ≠ [] →
      (privBad s g e op r = true → takes lanes 6 sp.pc) ∧
      (privBad s g e op r = false → Table.fieldsOk r d.toNat a.toNat b.toNat = false → takes lanes 5 sp.pc) ∧
      (privBad s g e op r = false → Table.fieldsOk r d.toNat a.toNat b.toNat = true →
        (op = 0x9B → redxBad gr d.toNat lanes = false) → queueCheck s g op d.toNat a.toNat b.toNat = 0 →
        (∀ k ∈ actingQuads s g e, quadCheck gr op d.toNat a.toNat b.toNat r k = 0) →
        sp.park = none → anyPending s g op d.toNat a.toNat b.toNat r (actingQuads s g e) = true →
          takes (if wholeSplit op then activeLanes s g e else lanes) 4 0) ∧
      (privBad s g e op r = false → Table.fieldsOk r d.toNat a.toNat b.toNat = true →
        (op = 0x9B → redxBad gr d.toNat lanes = false) → queueCheck s g op d.toNat a.toNat b.toNat = 0 →
        ∀ c, c ≠ 0 → (∀ k ∈ actingQuads s g e, quadCheck gr op d.toNat a.toNat b.toNat r k = c) →
          takes (if wholeSplit op then activeLanes s g e else lanes) c sp.pc)

/-! ## Transfers of control -/

/-- R111 to R114, R120: BRA, CALL, and BRS, CALLI and RET whose quads agree, go to the target of all quads; CALL and
CALLI leave the address of the next instruction in s[D:2], and check that they arrive at slot 0. R112: quads of a BRS
that disagree part: those with the destination of the lowest quad keep the entry, the others form a split in the lowest
free entry. -/
def Obligations.TransfersOfControl : Prop :=
  (∀ (s : State) (g e : Nat) (d a b : Byte) (l : Word),
     let gr := groupAt s g
     let pc := (splitAt gr e).pc
     let near := pc + BitVec.ofInt 64 (4 * l.toInt)
     let holds := fun k => condSeq (d.toNat / 16) (sGet gr k a.toNat) (sGet gr k b.toNat)
     let all := (splitAt gr e).qmask
     let check (quads : QuadMask) (words : Nat) (slot0 : Bool) : List Arrive :=
       [{ lanes := ((splitAt gr e).act ||| (splitAt gr e).rejoin) &&& lanesOfQuads quads, fpc := pc, next := nextOf s g e words, slot0 := slot0 }]
     (Clear s g e 0x01 d.toNat a.toNat b.toNat →
       GoesTo s g e near (check all 2 false) none (exec (.bra d a b l) s)) ∧
     (Clear s g e 0x02 d.toNat a.toNat b.toNat → (∀ k ∈ actingQuads s g e, holds k = true) →
       GoesTo s g e near (check (maskOf 16 (actingQuads s g e)) 2 false) none (exec (.brs d a b l) s)) ∧
     (Clear s g e 0x02 d.toNat a.toNat b.toNat → (∀ k ∈ actingQuads s g e, holds k = false) →
       GoesTo s g e (nextOf s g e 2) [] none (exec (.brs d a b l) s)) ∧
     (Clear s g e 0x07 d.toNat a.toNat b.toNat →
       GoesTo s g e near (check all 2 true) (some (d.toNat, nextOf s g e 2)) (exec (.call d a b l) s)) ∧
     ∀ t : DWord, (∀ k ∈ actingQuads s g e, sPair gr k a.toNat = t) →
       (Clear s g e 0x08 d.toNat a.toNat b.toNat →
         GoesTo s g e t (check all 1 true) (some (d.toNat, nextOf s g e 1)) (exec (.calli d a b) s)) ∧
       (Clear s g e 0x09 d.toNat a.toNat b.toNat →
         GoesTo s g e t (check all 1 false) none (exec (.ret d a b) s))) ∧
  (∀ (s : State) (g e n : Nat) (d a b : Byte) (l : Word), Clear s g e 0x02 d.toNat a.toNat b.toNat →
     let gr := groupAt s g
     let sp := splitAt gr e
     let quads := actingQuads s g e
     let holds := fun k => condSeq (d.toNat / 16) (sGet gr k a.toNat) (sGet gr k b.toNat)
     let dest := fun k => if holds k then sp.pc + BitVec.ofInt 64 (4 * l.toInt) else nextOf s g e 2
     let k0 := quads.headD 0
     let away := quads.filter fun k => dest k != dest k0
     e < 8 → freeEntry gr = some n → n < gr.splits.length → away ≠ [] →
     ∃ t, exec (.brs d a b l) s = .next (afterRun s t g e) ∧ OnlyGroup s t g ∧
       (splitAt (groupAt t g) e).pc = dest k0 ∧ (splitAt (groupAt t g) e).qmask = sp.qmask &&& ~~~(maskOf 16 away) ∧
       (splitAt (groupAt t g) n).valid = true ∧ (splitAt (groupAt t g) n).pc = dest (away.headD 0) ∧
       (splitAt (groupAt t g) n).qmask = maskOf 16 away ∧
       (splitAt (groupAt t g) n).act = (sp.act ||| sp.rejoin) &&& lanesOfQuads (maskOf 16 away))

/-- R98, R115: BRD of an ordinary split opens a region that records its targets; lanes whose quad agrees go with it, and
a lane whose predicate is 1 in a quad of both kinds is deferred. The tables then come to rest. R99, R116: JOIN outside a
region does nothing; at the JOIN of its innermost region, whose record is in the table, the split parks there in STATE 3
with its quads arrived, and the tables come to rest. R102, R117: BRK of D regions, none of whose records holds a lane of
the split's quads: the quads leave every one of the D innermost records and go to the target in the outermost one's
parent. -/
def Obligations.RegionsOpenAndClose : Prop :=
  (∀ (s : State) (g e i : Nat) (d a b : Byte) (l : Word), Clear s g e 0x03 d.toNat a.toNat b.toNat →
     let gr := groupAt s g
     let sp := splitAt gr e
     let pred := fun j => pGet gr j (d.toNat % 16)
     let act := activeLanes s g e
     let taken := (actingQuads s g e).filter fun k => (act.filter (· / 4 == k)).all pred
     let mixed := (actingQuads s g e).filter fun k => (act.filter (· / 4 == k)).any pred && !((act.filter (· / 4 == k)).all pred)
     (firstFrom 8 fun i => !(gr.regions.any (usesEntry i))) = some i → (∀ r ∈ gr.regions, r.num ≠ gr.nextRegion) →
     taken = [] ∨ (e < 8 ∧ mixed = [] ∧ taken = actingQuads s g e) →
     ∃ gr', exec (.brd d a b l) s = .next
         (afterRun s (ran s (settled (modGroup s g fun _ => gr') g) g e 0x03 d.toNat a.toNat b.toNat) g e) ∧
       gr'.nextRegion = gr.nextRegion + 1 ∧ gr'.quads = gr.quads ∧
       (∃ r ∈ gr'.regions, r.num = gr.nextRegion ∧ r.place = .table i ∧ r.parent = sp.inner ∧ r.members = sp.qmask ∧
         r.dtarget = sp.pc + BitVec.ofInt 64 (4 * (l.extractLsb' 0 16).toInt) ∧
         r.joinpc = sp.pc + BitVec.ofInt 64 (4 * (l.extractLsb' 16 16).toInt) ∧
         r.defer = maskOf 64 (act.filter fun j => mixed.contains (j / 4) && pred j)) ∧
       (splitAt gr' e).pc = (if taken = [] then nextOf s g e 2
         else sp.pc + BitVec.ofInt 64 (4 * (l.extractLsb' 0 16).toInt)) ∧
       (splitAt gr' e).inner = some gr.nextRegion ∧
       (splitAt gr' e).act = ((sp.act ||| sp.rejoin) &&& lanesOfQuads sp.qmask)
         &&& ~~~(maskOf 64 (act.filter fun j => mixed.contains (j / 4) && pred j))) ∧
  (∀ (s : State) (g e : Nat) (d a b : Byte), Clear s g e 0x04 d.toNat a.toNat b.toNat →
     let gr := groupAt s g
     let sp := splitAt gr e
     (sp.inner = none →
       exec (.join d a b) s = .next
         (afterRun s (ran s (modGroup s g fun gr => modSplit gr e (stepPast · 1)) g e 0x04 d.toNat a.toNat b.toNat) g e)) ∧
     ∀ n i, sp.inner = some n → (regionAt gr n).place = .table i → (∃ r ∈ gr.regions, r.num = n) →
       (regionAt gr n).joinpc = sp.pc →
       ∃ gr', exec (.join d a b) s = .next (endRun (settled (modGroup s g fun _ => gr') g) g e) ∧ gr'.quads = gr.quads ∧
         (splitAt gr' e).st = .atJoin ∧ (splitAt gr' e).pc = sp.pc ∧ (splitAt gr' e).act = sp.act ||| sp.rejoin ∧
         (regionAt gr' n).arrived = (regionAt gr n).arrived ||| sp.qmask ∧
         ∀ j, j ≠ e → splitAt gr' j = splitAt gr j) ∧
  (∀ (s : State) (g e : Nat) (d a b : Byte) (l : Word), Clear s g e 0x05 d.toNat a.toNat b.toNat →
     let gr := groupAt s g
     let sp := splitAt gr e
     let recs := regionChain gr d.toNat sp.inner
     recs.length = d.toNat → recs.Nodup → (∀ n ∈ recs, ∃ r ∈ gr.regions, r.num = n) →
     (∀ n ∈ recs, inTable (regionAt gr n) = true) →
     (∀ k ∈ bitsOf sp.qmask, heldIn gr recs k = none) → sp.qmask ≠ 0 →
     ∃ gr', exec (.brk d a b l) s = .next
         (afterRun s (ran s (settled (modGroup s g fun _ => gr') g) g e 0x05 d.toNat a.toNat b.toNat) g e) ∧ gr'.quads = gr.quads ∧
       (splitAt gr' e).pc = sp.pc + BitVec.ofInt 64 (4 * l.toInt) ∧
       (splitAt gr' e).inner = (regionAt gr (recs.getLastD 0)).parent ∧ (splitAt gr' e).qmask = sp.qmask ∧
       ∀ n ∈ recs, (regionAt gr' n).members = (regionAt gr n).members &&& ~~~sp.qmask ∧
         (regionAt gr' n).arrived = (regionAt gr n).arrived &&& ~~~sp.qmask)

/-- R121, R122, R104: the acting lanes of EXIT have exited for good, and those of DEMOTE are helper lanes, of which the
lanes that were none before have a new %tid. -/
def Obligations.LanesLeaveAndDemote : Prop :=
  ∀ (s : State) (g e : Nat) (d a b : Byte), e < 8 →
    let gr := groupAt s g
    (Clear s g e 0x0A d.toNat a.toNat b.toNat → ∃ t, exec (.exit d a b) s = .next t ∧
      ∀ l ∈ actingLanes s g e 0x0A a.toNat, laneThere gr l →
        (laneAt (groupAt t g) l).exited = true ∧ (laneAt (groupAt t g) l).v = (laneAt gr l).v) ∧
    (Clear s g e 0x0B d.toNat a.toNat b.toNat → ∃ t, exec (.demote d a b) s = .next t ∧
      ∀ l ∈ actingLanes s g e 0x0B a.toNat, laneThere gr l →
        (laneAt (groupAt t g) l).helper = true ∧ (laneAt (groupAt t g) l).v = (laneAt gr l).v ∧
        (laneAt (groupAt t g) l).demoted = ((laneAt gr l).demoted || !(laneAt gr l).helper))

/-- R118: JT whose quads agree on the join and whose lanes' indices all lie at or beyond the length opens its region and
goes on at the next instruction; no load is made, and no byte of memory changes. R118, R119: a JT whose entry loads have
all returned with one offset, its region in the table, goes, with all its lanes, to pc + 4 × that offset, to arrive
there inside its region. -/
def Obligations.JumpTables : Prop :=
  (∀ (s : State) (g e i : Nat) (d a b : Byte), Clear s g e 0x06 d.toNat a.toNat b.toNat →
     let gr := groupAt s g
     let sp := splitAt gr e
     let join := fun k => sp.pc + BitVec.ofInt 64 (4 * ((sGet gr k b.toNat).extractLsb' 16 16).toInt)
     let k0 := (actingQuads s g e).headD 0
     sp.park = none → sp.inner = none → gr.reqs = [] → (clusterWalks s gr.part (clusterOf s g)).length ≤ 1024 →
     (∀ k ∈ actingQuads s g e, join k = join k0) → sp.rejoin = 0 → sp.st ≠ .atJoin →
     (∀ l ∈ activeLanes s g e, (sGet gr (l / 4) b.toNat).toNat % 65536 ≤ (vGet gr l d.toNat).toNat) →
     (firstFrom 8 fun i => !(gr.regions.any (usesEntry i))) = some i → (∀ r ∈ gr.regions, r.num ≠ gr.nextRegion) →
     ∃ gr', exec (.jt d a b) s =
         .next (endRun (settled (modGroup { s with nextId := s.nextId + 1 } g fun _ => gr') g) g e) ∧ gr'.reqs = gr.reqs ∧
       (splitAt gr' e).pc = nextOf s g e 1 ∧ (splitAt gr' e).act = sp.act ∧ (splitAt gr' e).inner = some gr.nextRegion ∧
       (regionAt gr' gr.nextRegion).joinpc = join k0 ∧ (regionAt gr' gr.nextRegion).dtarget = sp.pc ∧
       (regionAt gr' gr.nextRegion).defer = 0 ∧ gr'.quads = gr.quads) ∧
  (∀ (s : State) (g e n : Nat) (d a b : Byte) (off : Word), Clear s g e 0x06 d.toNat a.toNat b.toNat →
     let gr := groupAt s g
     let sp := splitAt gr e
     sp.park = some .entries → sp.inner = some n → sp.rejoin = 0 → sp.st ≠ .atJoin → (∃ r ∈ gr.regions, r.num = n) →
     inTable (regionAt gr n) = true →
     (∀ r ∈ gr.reqs, r.lane ∈ activeLanes s g e → (∃ loc, r.what = .entry loc) →
       r.back = true ∧ r.poisoned = false ∧ r.mark = 0 ∧ r.data = some [off]) →
     (∀ l ∈ activeLanes s g e, ∃ r ∈ gr.reqs, r.lane = l ∧ ∃ loc, r.what = .entry loc) →
     ∃ gr', exec (.jt d a b) s = .next (endRun (settled (modGroup s g fun _ => gr') g) g e) ∧ gr'.quads = gr.quads ∧
       (splitAt gr' e).pc = sp.pc + BitVec.ofInt 64 (4 * off.toInt) ∧ (splitAt gr' e).act = sp.act ∧
       (splitAt gr' e).arrive =
         [{ lanes := maskOf 64 (activeLanes s g e), fpc := sp.pc, next := nextOf s g e 1, within := some n }] ∧ (splitAt gr' e).park = none ∧
       (regionAt gr' n).defer = (regionAt gr n).defer)

/-! ## Loads, stores and atomics -/

/-- R172, R136, R154, R18: LD, LDX, LDP and a live LDV whose accesses pass their checks make one request for each acting
lane at the address of Table 10.1; the registers stay as they are until the results return. -/
def Obligations.LaneLoadsIssue : Prop :=
  ∀ (s : State) (g e : Nat) (d a b : Byte) (loc : Ask → Loc),
    let gr := groupAt s g
    let size := fun l => accessSize (modeOf gr (l / 4))
    let done (op : Nat) (pool : Bool) (va : Nat → DWord) (i : Instr) : Prop :=
      let asks := (actingLanes s g e op a.toNat).map fun l => laneAsk gr l (va l) .read pool
      Clear s g e op d.toNat a.toNat b.toNat → Served (envOf s g e op d.toNat a.toNat b.toNat 0) asks loc →
        IssuesAccesses s g e (1 + asks.length) false
          (loadRequests s g asks loc .vec d.toNat fun x => BitVec.twoPow 64 x.lane) [] (exec i s)
    done 0x80 false (fun l => vPair gr l a.toNat + BitVec.ofNat 64 b.toNat) (.ld d a b) ∧
    done 0x81 false (fun l => sPair gr (l / 4) a.toNat + zext (vGet gr l b.toNat) * BitVec.ofNat 64 (size l)) (.ldx d a b) ∧
    done 0x84 true (fun l => zext (vGet gr l a.toNat + BitVec.ofNat 32 b.toNat)) (.ldp d a b) ∧
    ((∀ l ∈ actingLanes s g e 0x86 a.toNat, sGet gr (l / 4) b.toNat = 0xFFFFFFFF ∨
        (sGet gr (l / 4) b.toNat).toNat = (partAt s gr.part).gencur) →
      done 0x86 false (fun l => vPair gr l a.toNat) (.ldv d a b))

/-- R172, R92, R155: ST, STX and STP put one store of each acting lane that is no helper lane in the group's store
queue, with the bytes of v[D] on; memory changes only when a store is performed. R87: SLD and SST make one access for
each quad at s[A:2] + B, whose fault every active lane of the quad takes; a quad whose active lanes are all helper lanes
stores nothing, and the stores keep the order of the quads. R242: a store instruction some of whose pages have no known
translation makes its other accesses at once, and its split parks in STATE 2, at the next instruction, until the walks
for the rest. -/
def Obligations.StoresQueue : Prop :=
  (∀ (s : State) (g e : Nat) (d a b : Byte) (loc : Ask → Loc),
     let gr := groupAt s g
     let size := fun l => accessSize (modeOf gr (l / 4))
     let done (op : Nat) (pool : Bool) (va : Nat → DWord) (i : Instr) : Prop :=
       let asks := ((actingLanes s g e op a.toNat).filter fun l => !(laneAt gr l).helper).map fun l =>
         laneAsk gr l (va l) .write pool
       Clear s g e op d.toNat a.toNat b.toNat → Served (envOf s g e op d.toNat a.toNat b.toNat 0) asks loc →
         IssuesAccesses s g e (1 + asks.length) false []
           (storeWrites s g asks loc (fun x => laneRunBytes gr x.lane d.toNat x.size) (fun x => BitVec.twoPow 64 x.lane) false) (exec i s)
     done 0x82 false (fun l => vPair gr l a.toNat + BitVec.ofNat 64 b.toNat) (.st d a b) ∧
     done 0x83 false (fun l => sPair gr (l / 4) a.toNat + zext (vGet gr l b.toNat) * BitVec.ofNat 64 (size l)) (.stx d a b) ∧
     done 0x85 true (fun l => zext (vGet gr l a.toNat + BitVec.ofNat 32 b.toNat)) (.stp d a b)) ∧
  (∀ (s : State) (g e : Nat) (d a b : Byte) (loc : Ask → Loc),
     let gr := groupAt s g
     let va := fun k => sPair gr k a.toNat + BitVec.ofNat 64 b.toNat
     let loads := (actingQuads s g e).map fun k => quadAsk s g e k (va k) .read
     let stores := ((actingQuads s g e).filter fun k =>
       !(((activeLanes s g e).filter (· / 4 == k)).all fun l => (laneAt gr l).helper)).map fun k =>
         quadAsk s g e k (va k) .write
     (Clear s g e 0x65 d.toNat a.toNat b.toNat → Served (envOf s g e 0x65 d.toNat a.toNat b.toNat 0) loads loc →
       IssuesAccesses s g e (1 + loads.length) false (loadRequests s g loads loc .seq d.toNat fun x => maskOf 64 x.who) []
         (exec (.sld d a b) s)) ∧
     (Clear s g e 0x66 d.toNat a.toNat b.toNat → Served (envOf s g e 0x66 d.toNat a.toNat b.toNat 0) stores loc →
       IssuesAccesses s g e (1 + stores.length) false []
         (storeWrites s g stores loc (fun x => leBytes x.size
           (if x.size = 8 then (sPair gr (x.lane / 4) d.toNat).toNat else (sGet gr (x.lane / 4) d.toNat).toNat))
           (fun x => maskOf 64 x.who) true)
         (exec (.sst d a b) s))) ∧
  (∀ (s : State) (g e : Nat) (d a b : Byte), Clear s g e 0x82 d.toNat a.toNat b.toNat →
     let gr := groupAt s g
     let v := envOf s g e 0x82 d.toNat a.toNat b.toNat 0
     let asks := ((actingLanes s g e 0x82 a.toNat).filter fun l => !(laneAt gr l).helper).map fun l =>
       laneAsk gr l (vPair gr l a.toNat + BitVec.ofNat 64 b.toNat) .write false
     let late := asks.filter v.misses
     late ≠ [] → v.sp.park = none → StandsAlone gr e → (∀ x ∈ asks, v.misses x = false → ∃ loc, judgeAsk v x = .ok loc ∧ RoleKnown s gr.part loc) →
     (distinct (clusterWalks s gr.part (clusterOf s g) ++ pagesOf late)).length ≤ 1024 →
     (v.sectors asks).length ≤ missFree s gr.part gr.core →
     ∃ t w, exec (.st d a b) s = .next t ∧ SameMemory s t ∧ (groupAt t g).quads = gr.quads ∧
       (groupAt t g).storeQ.map (·.lane) = gr.storeQ.map (·.lane) ++ (asks.filter fun x => !(v.misses x)).map (·.lane) ∧
       (splitAt (groupAt t g) e).st = .waitBit ∧ (splitAt (groupAt t g) e).pc = nextOf s g e 1 ∧
       (splitAt (groupAt t g) e).park = some (.walk [w]) ∧ w.fpc = v.pc ∧ w.faults = [] ∧
       w.asks.map (fun x => (x.lane, x.va)) = late.map fun x => (x.lane, x.va))

/-- R175 to R177, R126: an atomic queues one operation for each acting lane that is no helper lane, awaits the words
that it returns, and closes the idempotent region. -/
def Obligations.AtomicsQueue : Prop :=
  ∀ (s : State) (g e : Nat) (d a b : Byte) (loc : Ask → Loc),
    let gr := groupAt s g
    let mode := fun l => modeOf gr (l / 4)
    let pair := fun l => Table.msizeOf (mode l) == 3
    let arg := fun (l r : Nat) => if pair l then (vPair gr l r).toNat else (vGet gr l r).toNat
    let done (op : Nat) (size : Nat → Nat) (what : Nat → MemOp) (ret : Bool) (words : Nat → Nat) (i : Instr) : Prop :=
      let lanes := (actingLanes s g e op a.toNat).filter fun l => !(laneAt gr l).helper
      let ask (l : Nat) : Ask :=
        { lane := l, who := [l], va := vPair gr l a.toNat, size := size l, align := size l, kind := .atomic
          acq := acquires (mode l), atom := op }
      let rid := fun (i : Nat) => s.nextId + 1 + lanes.length + i
      Clear s g e op d.toNat a.toNat b.toNat → Served (envOf s g e op d.toNat a.toNat b.toNat 0) (lanes.map ask) loc →
        IssuesAccesses s g e (1 + (if ret then 2 else 1) * lanes.length) true
          (if ret then lanes.mapIdx fun i l =>
            { id := rid i, iid := s.nextId, what := .atomic, lane := l, lanes := BitVec.twoPow 64 l, base := d.toNat
              regs := words l, va := vPair gr l a.toNat, acq := acquires (mode l)
              slack := slackOf s g (Table.slkOf (mode l)), stage := .core : Req } else [])
          (lanes.mapIdx fun i l =>
            { newWrite s g s.nextId (mode l) l (size l) (vPair gr l a.toNat) false (what l) with
              id := s.nextId + 1 + i, loc := loc (ask l), ret := if ret then some (rid i) else none, ordered := true
              peerInc := peerIncOf s gr.part gr.core (loc (ask l)) (vPair gr l a.toNat) })
          (exec i s)
    let plain (op : Nat) (i : Instr) : Prop :=
      done op (fun l => if pair l then 8 else 4)
        (fun l => .atomic op (Table.typeOf (mode l)) (arg l b.toNat)
          (if op = 0x97 then arg l (b.toNat + if pair l then 2 else 1) else 0))
        (d != 255) (fun l => if pair l then 2 else 1) i
    plain 0x90 (.aadd d a b) ∧ plain 0x91 (.amin d a b) ∧ plain 0x92 (.amax d a b) ∧ plain 0x93 (.aand d a b) ∧
    plain 0x94 (.aor d a b) ∧ plain 0x95 (.axor d a b) ∧ plain 0x96 (.axch d a b) ∧ plain 0x97 (.acas d a b) ∧
    plain 0x98 (.afadd d a b) ∧
    done 0x99 (fun _ => 8) (fun l => .atomic 0x99 0 (vGet gr l b.toNat).toNat 0) (d != 255) (fun _ => 2)
      (.redc d a b) ∧
    done 0x9A (fun _ => 8) (fun _ => .cprd) true (fun _ => 2) (.cprd d a b) ∧
    done 0x9B (fun _ => 8)
      (fun l => .redx (redxConv (vGet gr l b.toNat).toNat (sGet gr (l / 4) d.toNat).toInt)) false (fun _ => 0) (.redx d a b)

/-- R173, R242: PREF writes no register and faults in no lane; with room in the miss table for every lane, each sector
that a lane may read at a slice is asked for; a page without a known translation is waited for. R174, R152: FENCE at
thread scope (SCOPE = 1, Table 2.4) changes nothing; beyond it, kinds 0 and 1 make the group's earlier loads acquires,
after which the departed stores of its cluster count as seen (the model's reading, log entry 21); at device scope it
then goes on at once where the group has nothing outstanding and every store that it has made or seen is performed, and
otherwise, with a departed store of its own not yet performed, parks in STATE 2 at the next instruction. -/
def Obligations.PrefetchesAndFences : Prop :=
  (∀ (s : State) (g e : Nat) (d a b : Byte), Clear s g e 0x87 d.toNat a.toNat b.toNat →
     let gr := groupAt s g
     let v := envOf s g e 0x87 d.toNat a.toNat b.toNat 0
     let ask (l : Nat) : Ask :=
       { lane := l, who := [l], va := vPair gr l a.toNat + BitVec.ofNat 64 b.toNat, size := 1, align := 1, kind := .read
         lock := false }
     let lanes := actingLanes s g e 0x87 a.toNat
     let late := (lanes.map ask).filter v.misses
     v.sp.park = none → lanes.length ≤ missFree s gr.part gr.core → (distinct (clusterWalks s gr.part (clusterOf s g) ++ pagesOf late)).length ≤ 1024 →
     (late = [] → ∃ t, exec (.pref d a b) s = .next (afterRun s t g e) ∧ (groupAt t g).quads = gr.quads ∧
       (groupAt t g).storeQ = gr.storeQ ∧ splitAt (groupAt t g) e = atTimeOf (stepPast (splitAt gr e) 1) (splitAt (groupAt t g) e) ∧
       (∀ r ∈ (groupAt t g).reqs, r ∈ gr.reqs ∨ isPrefetch r.what = true) ∧
       ∀ l ∈ lanes, ∀ loc, judgeAsk v (ask l) = .ok loc → hasSlice loc = true →
         ∃ r ∈ (groupAt t g).reqs, r.what = .prefetch { loc with addr := loc.addr / 32 * 32 } ∧ r.lane = l) ∧
     (late ≠ [] → StandsAlone gr e →
       ∃ t w, exec (.pref d a b) s = .next t ∧ (groupAt t g).quads = gr.quads ∧ (groupAt t g).storeQ = gr.storeQ ∧
         (splitAt (groupAt t g) e).st = .waitBit ∧ (splitAt (groupAt t g) e).park = some (.walk [w]) ∧ w.faults = [] ∧
         w.asks.map (fun x => (x.lane, x.va)) = late.map fun x => (x.lane, x.va))) ∧
  (∀ (s : State) (g e : Nat) (d a b : Byte), Clear s g e 0x88 d.toNat a.toNat b.toNat → b ≠ 3 →
     let gr := groupAt s g
     let scope := fun k => Table.scopeOf (modeOf gr k)
     let past := fun u => modGroup u g fun gr => modSplit gr e (stepPast · 1)
     let s1 := if b = 2 then s else noteAcquire s g
     ((∀ k ∈ actingQuads s g e, scope k = 1) → exec (.fence d a b) s = .next (afterRun s (ran s (past s) g e 0x88 d.toNat a.toNat b.toNat) g e)) ∧
     ((∃ k ∈ actingQuads s g e, scope k ≠ 1) → gr.reqs = [] → gr.storeQ = [] → tilesDue s g = [] →
       clusterPerformed s1 g = true → groupDrained s g = true → walksDue s g = [] →
       exec (.fence d a b) s = .next (endRun (past s1) g e)) ∧
     ((∃ k ∈ actingQuads s g e, scope k = 0) → gr.reqs = [] → tilesDue s g = [] → walksDue s g = [] → b ≠ 1 → groupDrained s g = false →
       exec (.fence d a b) s =
         .next (parkWalk s1 g e 1 { fence := some (b.toNat, true), lanes := (splitAt gr e).act } (splitAt gr e).marked)))

/-! ## Packets on their way -/

/-- R18, R141, R154, R169: RESULT_RETURN of a sector request, whose loads are all served, writes to the registers of
each live lane the bytes that the lane sees, extended as TYPE says; the requests are gone (that one reply brings them
all is the model's reading of R141, log entry 17). R271: where its slack is used up, the one reply counts once as late,
saturating. -/
def Obligations.LoadsReturnWhatTheLaneSees : Prop :=
  ∀ (s : State) (g : Nat) (r0 : Req),
    let gr := groupAt s g
    let rs := sectorRequest s g r0
    g < s.groups.length → gr.wg < s.wgs.length → r0 ∈ gr.reqs → (∀ x ∈ gr.reqs, ∀ y ∈ gr.reqs, x.id = y.id → x = y) →
    (∀ r ∈ rs, (∃ loc size sx, r.what = .mem loc size sx ∧ loadHeld s g r loc size = false ∧
        ownsLoc s gr.part loc = true) ∧ r.file = .vec ∧
      r.lane < 64 ∧ r.lanes = BitVec.twoPow 64 r.lane ∧ r.back = false ∧ r.data = none ∧ r.stage = .served ∧ r.mark = 0 ∧
      r.acq = false ∧ ∀ x ∈ gr.reqs, x.lane = r.lane → x.id ≤ r.id → x = r) →
    ∃ t, exec (.resultReturn g r0.id) s = .next t ∧ SameMemory s t ∧
      (∀ x ∈ (groupAt t g).reqs, x ∈ gr.reqs ∧ x ∉ rs) ∧
      (wgAt t gr.wg).late = (if remaining r0.slack s.now = 0 then satInc (wgAt s gr.wg).late else (wgAt s gr.wg).late) ∧
      (∀ r ∈ rs, ∀ loc size sx, r.what = .mem loc size sx → laneThere gr r.lane → laneLive gr r.lane = true →
        ∀ i, vGet (groupAt t g) r.lane i =
          wordAfter r.base (loadWords (laneBytes s g r.lane r.id loc size) size sx) i (vGet gr r.lane i)) ∧
      ∀ l, laneThere gr l → (∀ r ∈ rs, r.lane ≠ l) → laneAt (groupAt t g) l = laneAt gr l

/-- R155, R141, R307: the head of a store queue, with no earlier store of its group still to be translated, leaves it,
with what shares its sector request, with the tag of the current generation; a store to the pool is performed at once,
byte by byte, and no other byte changes. R157, R148: SLICE_APPLY of the only write at the slices, performed by itself,
none of its group before it, on an owned frame of a block that needs no other frame, in a partition that holds no closed
generation, puts the new value at its place in HBM or the capacity tier; every other byte of every memory stays, and an
atomic's request holds the old value. R141, R145, R271: ACKNOWLEDGEMENT ends the sector request of an applied write once
all its writes are applied, and waits before that; where its slack is used up, it counts once as late for its workgroup,
saturating (log entry 17). -/
def Obligations.WritesArePerformed : Prop :=
  (∀ (s : State) (g : Nat) (w : Write) (rest : List Write),
     let gr := groupAt s g
     let unit := w :: leavesWith w rest
     g < s.groups.length → gr.storeQ = w :: rest → (∀ x ∈ unit, storesWalking s g x = false) → gr.gone = false →
     (partAt s gr.part).frozen = false →
     ((∃ f, w.loc.space = f ∧ (f = .hbm ∨ f = .cap ∨ ∃ n, f = .peer n)) →
       (∀ x ∈ unit, mayDepart s g x = true ∧ loadsBefore s g x = []) →
       ∃ t, exec (.storeQueueDeparture g) s = .next t ∧ SameMemory s t ∧
         (groupAt t g).storeQ = gr.storeQ.filter (fun x => !(unit.any (·.id == x.id))) ∧
         t.flight = s.flight ++ unit.map fun x =>
           { x with gen := (partAt s w.part).gencur, inc := (partAt s w.part).inc, stage := startStage s w.part x.loc }) ∧
     (∀ k bs, w.loc.space = .pool k → k < s.gangs.length → w.op = .store bs → bs.length = w.size → w.ret = none →
       mayDepart s g w = true → loadsBefore s g w = [] →
       ∃ t, exec (.storeQueueDeparture g) s = .next t ∧ (groupAt t g).storeQ = gr.storeQ.filter (fun x => x.id != w.id) ∧
         t.flight = s.flight ∧
         ∀ l, homeByte t l =
           if l.space = .pool k ∧ w.loc.addr ≤ l.addr ∧ l.addr < w.loc.addr + w.size
           then bs.getD (l.addr - w.loc.addr) 0 else homeByte s l)) ∧
  (∀ (s : State) (w : Write) (n : Nat),
     let old := leNat (homeBytes s w.loc w.size)
     s.flight.filter atSlice = [w] → performedWith s w = [w] → behindOwn s w = false →
     (w.loc.space = .hbm ∨ w.loc.space = .cap) → ownsLoc s w.part w.loc = true → (partAt s w.part).gens = [] →
     needsFrame (partAt s w.part) w.gen (frameKind w.loc) (w.loc.addr / 65536) = false →
     (isStore w.op = true ∨ spanPoisoned s w.loc w.size = false) → memOpNew w.op w.size old = some n →
     ∃ t, exec (.sliceApply (sliceOf w.loc)) s = .next t ∧
       (∀ l, homeByte t l =
         if l.space = w.loc.space ∧ w.loc.addr ≤ l.addr ∧ l.addr < w.loc.addr + w.size
         then BitVec.ofNat 8 (n / 256 ^ (l.addr - w.loc.addr)) else homeByte s l) ∧
       (∀ x ∈ t.flight, x.id = w.id → x.applied = true) ∧
       (∀ id, w.ret = some id → ∀ x ∈ (groupAt t w.group).reqs, x.id = id → x.data = some (wordsOf w.size old))) ∧
  (∀ (s : State) (w : Write), (s.flight.find? fun x => x.id == w.id && x.applied && x.ret.isNone) = some w →
     w.wg < s.wgs.length →
     let due := (∃ x ∈ s.flight, sameAck w x = true ∧ x.applied = false) ∨ ∃ x ∈ (groupAt s w.group).storeQ, sameAck w x = true
     (due → exec (.acknowledgement w.id) s = .next s) ∧
     (¬ due → ∃ t, exec (.acknowledgement w.id) s = .next t ∧ SameMemory s t ∧
       t.flight = (s.flight.filter fun x => !(sameAck w x)) ∧
       (wgAt t w.wg).late = if remaining w.slack s.now = 0 then satInc (wgAt s w.wg).late else (wgAt s w.wg).late))

/-- R12, R13, R16: FETCH_LINE of a split that may issue and holds another line reads the line of its PC through a cached
translation that permits it; a line whose header passes the checks of R13 is then in its buffer. R239 to R242, R268:
PAGE_WALK of a page for which an access of a group waits, with nothing before it in its lane's order, no translation in
the cluster's cache and its walk among those that the walkers serve, ends the wait of that access; a leaf that it finds
is then in the caches of core and cluster, and a store that passes its checks with it is in the store queue. -/
def Obligations.FetchesAndWalks : Prop :=
  (∀ (s : State) (g e : Nat) (l : Leaf),
     let gr := groupAt s g
     let sp := splitAt gr e
     let va := lineOf sp.pc
     let loc := leafLoc gr.part l va
     let line := laneBytes s g ((bitsOf sp.act).headD 0) s.nextId (replicaLoc s gr.part .read false loc) 128
     mayIssue s g e = true → lineHere sp = false → tlbFind s gr.part gr.core (va.toNat / 65536) = some l →
     leafCheck l (!(isSuper s g e)) .fetch = 0 → ownsLoc s gr.part loc = true → headerOk line = true →
     ∃ t, exec (.fetchLine g e) s = .next t ∧ SameMemory s t ∧
       splitAt (groupAt t g) e = { sp with line := line, lineVa := va } ∧
       ∀ j, j ≠ e → splitAt (groupAt t g) j = splitAt gr j) ∧
  (∀ (s : State) (g e page h : Nat) (a a0 : Ask),
     let gr := groupAt s g
     let mine (x : Ask) : Bool := pageOf x.va == page && x.lane == a.lane && x.iid == a.iid
     gr.splits.length = 9 → a ∈ askedBy (splitAt gr e) → (gr.splits.flatMap askedBy).filter mine = [a] →
     firstAsk (((gr.splits.flatMap askedBy).filter fun x => pageOf x.va == page).map fun x => (g, x)) = some (g, a) →
     walkReady s g a.lane a.iid = some s → ctlbFind s gr.part gr.core page = none →
     walkStarter s gr.part (clusterOf s g) page = some (h, a0) → walkServed s gr.part a0.deadline = true →
     let found := walk s (.lane g a.lane a.iid) gr.part (BitVec.ofNat 64 (page * 65536))
     ∃ t, exec (.pageWalk g page) s = .next t ∧
       (∀ j, ∀ x ∈ askedBy (splitAt (groupAt t g) j), mine x = false) ∧
       ∀ l, found = .leaf l → tlbFind t gr.part gr.core page = some l ∧ ctlbFind t gr.part gr.core page = some l ∧
         ∀ loc w, a.kind ≠ .read → laneLive gr a.lane = true → judge' s g e a (some found) = .ok loc → a.write = some w →
           ∃ x ∈ (groupAt t g).storeQ, x.lane = w.lane ∧ x.loc = loc ∧ x.op = w.op)

/-! ## Synchronisation -/

/-- R161, R178, R180, R126: BAR and GBAR of an ordinary split with a real lane, whose group has nothing outstanding,
close the idempotent region; the split parks in STATE 4 with one arrival for each of its quads with a real active lane,
and the instance is looked at again. R178, R179: a BAR instance all of whose masks name the same quads, every one of
which has arrived, is complete: the next instance is open and empty, and each split parked at it goes on past its BAR.
-/
def Obligations.BarriersArriveAndRelease : Prop :=
  (∀ (s : State) (g e : Nat) (d a b : Byte), e < 8 →
     let gr := groupAt s g
     let sp := splitAt gr e
     let w := gr.wg
     let k := (wgAt s w).gang
     let real := fun (q : Nat) => (activeLanes s g e).any fun l => l / 4 == q && !(laneAt gr l).helper
     let arrivals := ((actingQuads s g e).filter real).map fun q =>
       ({ group := g, entry := e, q := (quadAt gr q).q, mask := sPair gr q a.toNat, pos := (wgAt s w).pos } : Arrival)
     let parked (t : State) (gang : Bool) (seq : Nat) : Prop :=
       (splitAt (groupAt t g) e).st = .atBar ∧ (splitAt (groupAt t g) e).park = some (.bar gang seq) ∧
       (splitAt (groupAt t g) e).pc = sp.pc ∧ (groupAt t g).quads = gr.quads
     (∃ l ∈ activeLanes s g e, (laneAt gr l).helper = false) → heldQuads gr sp.qmask = false → groupSeen s g = true →
     gr.reqs = [] → tilesDue s g = [] →
       (Clear s g e 0xA0 d.toNat a.toNat b.toNat → w < s.wgs.length →
         ∃ t u, exec (.bar d a b) s = .next (endRun u g e) ∧ u = modGroup (checkBar t w) g (fun x => { x with idem := false }) ∧
           parked t false (wgAt s w).bar.seq ∧ (wgAt t w).bar = { (wgAt s w).bar with arrivals := (wgAt s w).bar.arrivals ++ arrivals }) ∧
       (Clear s g e 0xA1 d.toNat a.toNat b.toNat → k < s.gangs.length →
         ∃ t u, exec (.gbar d a b) s = .next (endRun u g e) ∧ u = modGroup (checkGbar t k) g (fun x => { x with idem := false }) ∧
           parked t true (gangAt s k).gbar.seq ∧
           (gangAt t k).gbar = { (gangAt s k).gbar with arrivals := (gangAt s k).gbar.arrivals ++ arrivals })) ∧
  (∀ (s : State) (w : Nat) (m : List Nat),
     let wg := wgAt s w
     let arrived := wg.bar.arrivals.filter fun a => quadReal s w a.q
     let parked := atInstance s wg.groups false wg.bar.seq
     w < s.wgs.length → wg.groups.Nodup → parked ≠ [] → arrived ≠ [] →
     (∀ a ∈ arrived, barMask s w a.mask = m ∧ a.q ∈ m) → (∀ q ∈ m, ∃ a ∈ arrived, a.q = q) →
       (wgAt (checkBar s w) w).bar = { seq := wg.bar.seq + 1, arrivals := [] } ∧
       ∀ ge ∈ parked, let sp := splitAt (groupAt s ge.1) ge.2
         let sp' := splitAt (groupAt (checkBar s w) ge.1) ge.2
         sp.st = .atBar → sp.act ≠ 0 → sp.qmask ≠ 0 → isTwoWord (opcodeOf (slotWord sp.line (slotOf sp.pc))) = false →
           sp'.st = .ready ∧ sp'.park = none ∧ sp'.pc = nextAddr sp sp.pc 1 ∧ sp'.act = sp.act ||| sp.rejoin)

/-- R181: WAITA whose words all pass the checks parks in STATE 6 with the word and the comparison of each quad;
WAITA_READ, where no word lies at another device, once the lane's earlier loads have taken their values and nothing
keeps the read waiting, lets it go on if every condition holds, and changes no memory. -/
def Obligations.WaitsOnWords : Prop :=
  ∀ (s : State) (g e : Nat) (d a b : Byte) (loc : Nat → Loc),
    let gr := groupAt s g
    let sp := splitAt gr e
    (Clear s g e 0xA2 d.toNat a.toNat b.toNat →
      let v := envOf s g e 0xA2 d.toNat a.toNat b.toNat 0
      let ask := waitaAsk v s.nextId
      sp.park = none → (clusterWalks s gr.part (clusterOf s g)).length ≤ 1024 →
      (v.sectors (v.quads.map ask)).length ≤ missFree s gr.part gr.core →
      (∀ k ∈ v.quads, v.misses (ask k) = false ∧ judgeAsk v (ask k) = .ok (loc k)) →
      ParksAt { s with nextId := s.nextId + 1 } g e false .atWaita
        (some (.waita (d.toNat / 16) (v.quads.map fun k => (k, loc k, sGet gr k b.toNat, (ask k).va)))) (exec (.waita d a b) s)) ∧
    ∀ cc items u, sp.valid = true → sp.st = .atWaita → sp.halted = false → coreHalted s gr.part gr.core = false →
      sp.park = some (.waita cc items) → (∀ x ∈ items, farWord s gr.part x = false) → isTwoWord (opcodeOf (slotWord sp.line (slotOf sp.pc))) = false →
      waitaReady g e items s = some u → (∀ x ∈ items, ∀ l, waitaLane sp x.1 = some l →
        condSeq cc (BitVec.ofNat 32 (leNat (laneBytes u g l u.nextId x.2.1 4))) x.2.2.1 = true) →
      ∃ t, exec (.waitaRead g e) s = .next t ∧ SameMemory u t ∧ (splitAt (groupAt t g) e).st = .ready ∧
        (splitAt (groupAt t g) e).park = none ∧ (splitAt (groupAt t g) e).pc = nextAddr sp sp.pc 1

/-- R182: QDEF with a record in range defines a queue that was not defined, empty and with its whole allowance; no other
queue of the gang changes. R183, R184: PUSH and PUSHN into a queue with an allowance left, at which no split waits, by a
group with nothing outstanding: the slot at the tail of the pool holds the value, no other byte changes, and PUSHN's
predicate will be 1. R183, R154: POP of a queue that holds a value, at which no split waits, where nothing of its lanes
keeps their loads waiting, moves the oldest value, as its lowest active lane sees the slot, to s[D] of the quads with a
live active lane and ends the run. R184: POPN of a queue that holds a value, at which no split waits, takes it in the
same way: the value returns to s[D] and 1 to the predicate. R183, R184: where the queue can neither take nor give, PUSH
and POP park in STATE 5 as the youngest that waits there, and PUSHN and POPN only return 0 to their predicate. That a
POPN of an empty queue neither writes s[D] nor leaves it pending is the model's choice where R19 and R184 meet (log
entry 61). -/
def Obligations.QueuesHoldValues : Prop :=
  (∀ (s : State) (g e : Nat) (d a b : Byte), Clear s g e 0xA3 d.toNat a.toNat b.toNat →
     let gr := groupAt s g
     let k := (wgOf s g).gang
     let r := fun i => (sGet gr ((actingQuads s g e).headD 0) (a.toNat + i)).toNat
     (r 1 = 4 ∨ r 1 = 8) → r 0 % r 1 = 0 → 1 ≤ r 2 → r 2 ≤ 256 → 1 ≤ r 3 → r 3 ≤ r 2 → r 0 + r 2 * r 1 ≤ poolEnd s g →
     (queueAt s k d.toNat).defined = false → k < s.gangs.length → d.toNat < (gangAt s k).queues.length →
     ∃ t, exec (.qdef d a b) s = .next (afterRun s t g e) ∧ SameMemory s t ∧
       queueAt t k d.toNat = { defined := true, base := r 0, slotsz := r 1, slots := r 2, allow := r 3, allowance := r 3 } ∧
       ∀ n, n ≠ d.toNat → queueAt t k n = queueAt s k n) ∧
  (∀ (s : State) (g e n : Nat) (i : Instr) (op : Nat) (d a b : Byte), Clear s g e op d.toNat a.toNat b.toNat →
     (i = .push d a b ∧ op = 0xA4 ∧ n = d.toNat) ∨ (i = .pushn d a b ∧ op = 0xA6 ∧ n = b.toNat) →
     let gr := groupAt s g
     let k := (wgOf s g).gang
     let q := queueAt s k n
     let k0 := (actingQuads s g e).headD 0
     let x := if q.slotsz = 8 then sPair gr k0 a.toNat else zext (sGet gr k0 a.toNat)
     (∃ l ∈ activeLanes s g e, (laneAt gr l).helper = false) → groupSeen s g = true → gr.reqs = [] → tilesDue s g = [] →
     q.allowance ≠ 0 → q.pushers = [] → q.poppers = [] → k < s.gangs.length → n < (gangAt s k).queues.length →
     ∃ t, exec i s = .next (afterRun s t g e) ∧
       queueAt t k n = { q with allowance := q.allowance - 1, tail := (q.tail + 1) % q.slots, count := q.count + 1 } ∧
       (∀ l, homeByte t l =
         if l.space = .pool k ∧ q.base + q.slotsz * q.tail ≤ l.addr ∧ l.addr < q.base + q.slotsz * q.tail + q.slotsz
         then BitVec.ofNat 8 (x.toNat / 256 ^ (l.addr - (q.base + q.slotsz * q.tail))) else homeByte s l) ∧
       (op = 0xA4 → (groupAt t g).reqs = []) ∧
       (op = 0xA6 → ∃ r, (groupAt t g).reqs = [r] ∧ r.what = .queued ∧ r.file = .prd ∧ r.base = d.toNat % 16 ∧
         r.lanes = maskOf 64 (activeLanes s g e) ∧ r.data = some [1])) ∧
  (∀ (s : State) (g e : Nat) (d a b : Byte), Clear s g e 0xA5 d.toNat a.toNat b.toNat →
     let gr := groupAt s g
     let k := (wgOf s g).gang
     let q := queueAt s k a.toNat
     let slot := laneBytes s g ((activeLanes s g e).headD 0) s.nextId ⟨.pool k, q.base + q.slotsz * q.head⟩ q.slotsz
     let ws := wordsOf q.slotsz (leNat slot)
     (∃ l ∈ activeLanes s g e, (laneAt gr l).helper = false) → q.count ≠ 0 → q.pushers = [] →
     laneSettled g (activeLanes s g e) s = some s → q.poppers = [] → k < s.gangs.length → a.toNat < (gangAt s k).queues.length →
     ∃ t, exec (.pop d a b) s = .next (endRun t g e) ∧ SameMemory s t ∧
       queueAt t k a.toNat = { q with head := (q.head + 1) % q.slots, count := q.count - 1, allowance := q.allowance + 1 } ∧
       ∀ j ∈ actingQuads s g e, quadThere gr j → (∃ l ∈ activeLanes s g e, l / 4 = j ∧ laneLive gr l = true) →
         ∀ r, sGet (groupAt t g) j r = wordAfter d.toNat ws r (sGet gr j r)) ∧
  (∀ (s : State) (g e : Nat) (d a b : Byte), Clear s g e 0xA7 d.toNat a.toNat b.toNat →
     let gr := groupAt s g
     let k := (wgOf s g).gang
     let q := queueAt s k a.toNat
     let slot := laneBytes s g ((activeLanes s g e).headD 0) s.nextId ⟨.pool k, q.base + q.slotsz * q.head⟩ q.slotsz
     let ws := wordsOf q.slotsz (leNat slot)
     (∃ l ∈ activeLanes s g e, (laneAt gr l).helper = false) → q.count ≠ 0 → q.pushers = [] →
     laneSettled g (activeLanes s g e) s = some s → q.poppers = [] → (q.slotsz = 4 ∨ q.slotsz = 8) → k < s.gangs.length → a.toNat < (gangAt s k).queues.length →
     ∃ t r r', exec (.popn d a b) s = .next (afterRun s t g e) ∧ SameMemory s t ∧
       queueAt t k a.toNat = { q with head := (q.head + 1) % q.slots, count := q.count - 1, allowance := q.allowance + 1 } ∧
       (groupAt t g).reqs = gr.reqs ++ [r', r] ∧ r.what = .queued ∧ r.file = .seq ∧ r.base = d.toNat ∧ r.data = some ws ∧
       r'.what = .queued ∧ r'.file = .prd ∧ r'.base = b.toNat % 16 ∧ r'.data = some [1]) ∧
  (∀ (s : State) (g e : Nat) (d a b : Byte),
     let gr := groupAt s g
     let k := (wgOf s g).gang
     let waits (i : Instr) (n : Nat) (p : Park) (f : Queue → Queue) : Prop := k < s.gangs.length →
       n < (gangAt s k).queues.length → ∃ t, exec i s = .next t ∧ SameMemory s t ∧
         (splitAt (groupAt t g) e).st = .atQueue ∧ (splitAt (groupAt t g) e).park = some p ∧
         queueAt t k n = f (queueAt s k n) ∧ (groupAt t g).quads = gr.quads
     let refused (i : Instr) (p n : Nat) : Prop :=
       ∃ t r, exec i s = .next (afterRun s t g e) ∧ SameMemory s t ∧ (groupAt t g).reqs = gr.reqs ++ [r] ∧ r.what = .queued ∧
         r.file = .prd ∧ r.base = p ∧ r.lanes = maskOf 64 (activeLanes s g e) ∧ r.data = some [0] ∧
         queueAt t k n = queueAt s k n
     (∃ l ∈ activeLanes s g e, (laneAt gr l).helper = false) →
       (Clear s g e 0xA4 d.toNat a.toNat b.toNat → groupSeen s g = true → gr.reqs = [] →
         tilesDue s g = [] → (queueAt s k d.toNat).allowance = 0 →
         waits (.push d a b) d.toNat
           (.push d.toNat (pushValue (envOf s g e 0xA4 d.toNat a.toNat b.toNat 0) a.toNat (queueAt s k d.toNat))
             (slackOf s g 0))
           fun q => { q with pushers := q.pushers ++ [(g, e)] }) ∧
       (Clear s g e 0xA5 d.toNat a.toNat b.toNat → (queueAt s k a.toNat).count = 0 →
         laneSettled g (activeLanes s g e) s = some s →
         waits (.pop d a b) a.toNat (.pop a.toNat d.toNat (slackOf s g 0)) fun q => { q with poppers := q.poppers ++ [(g, e)] }) ∧
       (Clear s g e 0xA6 d.toNat a.toNat b.toNat →
         (queueAt s k b.toNat).allowance = 0 → refused (.pushn d a b) (d.toNat % 16) b.toNat) ∧
       (Clear s g e 0xA7 d.toNat a.toNat b.toNat →
         (queueAt s k a.toNat).count = 0 → refused (.popn d a b) (b.toNat % 16) a.toNat))

/-! ## The network -/

/-- R268: an arbitration point serves the packet that precedes every other that waits there, by remaining slack, then by
age; R301: before that a memory controller with room admits what its slices have missed or written, which spends 32
bytes of the partition's credit where the stack's HBM is reached (that the capacity tier spends none, and that a slice
asks again for what it writes in its cache, is the model's reading, log entry 71). R266: TRANSIT_WINDOW brings the time
to the next window of 8 ns, and the only packet of the machine, a write that was announced before and for which no
circuit is open, gets its slot in that window; R307: no cut is then overdue. R137: a pool address lies in the slice of
core (a >> 7) mod 8 at offset (a >> 10) × 128 + (a and 0x7F), so that a naturally aligned access of at most 32 bytes
touches one slice; 0x12345 lies in slice 6 at 0x2445. -/
def Obligations.PacketsAreServed : Prop :=
  (∀ (s : State),
     let all := packets s
     let first (here : List Pkt) (pt : ArbPoint) (f : Pkt → State) : Prop :=
       here ≠ [] → ∃ p ∈ here, (∀ q ∈ here, served s p q = true) ∧ exec (.arbitration pt false) s = .next (f p)
     (∀ c, first (all.filter fun p => p.stage == .cluster && physCluster s p.part (p.core / 8) == c && inTurn s all p)
       (.cluster c) fun p => setStage s p (.announced (s.now / 8))) ∧
     (∀ n, first (all.filter fun p => !p.isWrite && p.slice == n && (match p.stage with | .slice _ => true | _ => false))
       (.slice n) fun p => setStage s p (if Config.sliceHit s.tick then .served else .admission)) ∧
     (∀ st, (nth {} s.hbmStacks st).tripped = false →
       let u := admitted s st
       let here := (packets u).filter fun p => p.stage == .controller && p.slice / 4 == st
       here ≠ [] → ∃ p ∈ here, (∀ q ∈ here, served u p q = true) ∧
         exec (.arbitration (.controller st) false) s = .next (setStage u p .served)) ∧
     (∀ st p, let u := renewed s
       let mine := (packets u).filter fun p => p.slice / 4 == st && !p.isWrite
       (mine.filter (·.stage == .controller)).length < 64 → mine.filter (·.stage == .admission) = [p] →
         admitted s st = if p.space = .hbm then spendCredit (setStage u p .controller) st p.part
           else setStage u p .controller) ∧
     (∀ st, first (all.filter fun p => p.stage == .chase && p.slice / 4 == st) (.chase st) fun p => setStage s p .served)) ∧
  (∀ (s : State), ∃ t, exec .transitWindow s = .next t ∧ t.now = 8 * (s.now / 8 + 1) ∧ SameMemory s t ∧
     (∀ p, p < 12 → cutsDue t p = []) ∧
     let u := advance s (8 * (s.now / 8 + 1))
     ∀ w j, packets u = [writePkt u w] → w.stage = .announced j → j ≤ s.now / 8 → hasSlice w.loc = true →
       (∀ x ∈ s.wgs, ∀ c ∈ x.circuits, c.isOpen = false) →
       ∀ x ∈ t.flight, x.id = w.id → x.stage = .slice (s.now / 8 + 1)) ∧
  (poolSlice 0x12345 = 6 ∧ poolSliceOffset 0x12345 = 0x2445 ∧
   ∀ (a n i : Nat), n ∈ [1, 2, 4, 8, 16, 32] → a % n = 0 → i < n →
     poolSlice a < 8 ∧ poolSlice (a + i) = poolSlice a ∧ poolSliceOffset (a + i) = poolSliceOffset a + i)

/-- R273 to R277: SLK sets a class's slack and report option, CIRC opens a circuit with a new place in the order, CREL
and 64 windows without a flit end one. -/
def Obligations.SlackClassesAndCircuits : Prop :=
  ∀ (s : State) (g e : Nat) (d a b : Byte),
    let gr := groupAt s g
    let w := gr.wg
    let k0 := (actingQuads s g e).headD 0
    let x := (sGet gr k0 a.toNat).toNat
    let y := (sGet gr k0 b.toNat).toNat
    let only (t : State) (f : Workgroup → Workgroup) : Prop :=
      SameMemory s t ∧ (groupAt t g).quads = gr.quads ∧ ∀ i, wgAt t i = if i = w ∧ w < s.wgs.length then f (wgAt s i) else wgAt s i
    (Clear s g e 0xC1 d.toNat a.toNat b.toNat → x < 8192 →
      ∃ t, exec (.slk d a b) s = .next (afterRun s t g e) ∧ only t fun i =>
        { i with slack := upd i.slack d.toNat fun _ => { s := x % 4096, report := x / 4096 == 1 } }) ∧
    (Clear s g e 0xC2 d.toNat a.toNat b.toNat → x < 48 → y % 65536 ≠ 0 → 1 ≤ y / 65536 → y / 65536 ≤ 48 →
      ∃ t, exec (.circ d a b) s = .next (afterRun s t g e) ∧ only t fun i =>
        { i with circuits := upd i.circuits d.toNat fun _ =>
          { isOpen := true, slice := x, left := y % 65536, want := y / 65536, order := s.nextId } }) ∧
    (Clear s g e 0xC3 d.toNat a.toNat b.toNat →
      ∃ t, exec (.crel d a b) s = .next (afterRun s t g e) ∧ only t fun i =>
        { i with circuits := upd i.circuits d.toNat fun c => { c with isOpen := false } }) ∧
    ∀ i n, ∃ t, exec (.circuitIdleEnd i n) s = .next t ∧ (n < (wgAt s i).circuits.length → i < s.wgs.length →
      (nth {} (wgAt t i).circuits n).isOpen =
        ((nth {} (wgAt s i).circuits n).isOpen && decide ((nth {} (wgAt s i).circuits n).idle < 64)))

/-! ## Generations and contexts -/

/-- R307, R313, R316: a SNAP with nothing outstanding in its group and cluster, and room for one more generation (the
model counts those held and those about to close, log entry 47), parks with the window of its receipt, whose cut is then
to come; two windows later the cut closes the current generation, gives its number to the requests of that window, and
the next generation is current. R318, R319: GENQ asks for two words; GREL of a generation that is neither live nor to
come, in a group with nothing outstanding, retires it with code 5. R310: BACKGROUND_COPIER marks a sector of a block's
new backing as filled, where an HBM block comes before a capacity block of the same number, whose backing stays as it
is; R315: SLUICE moves nothing while it is off, and no byte of live memory ever changes. -/
def Obligations.GenerationsCloseAndEnd : Prop :=
  (∀ (s : State) (g e : Nat) (d a b : Byte),
     let gr := groupAt s g
     let pt := partAt s gr.part
     (Clear s g e 0xC4 d.toNat a.toNat b.toNat → gr.reqs = [] → tilesDue s g = [] → groupAcked s g = true →
       clusterPerformed s g = true → pt.gens.length + pt.cuts.length < 3 →
       ParksAt (modPart s gr.part fun pt =>
           { pt with cuts := if pt.cuts.contains (s.now / 8) then pt.cuts else pt.cuts ++ [s.now / 8] }) g e true .waitBit
         (some (.snap d.toNat (s.now / 8))) (exec (.snap d a b) s)) ∧
     ∀ p k, p < s.parts.length → cutsDue s p = [k] →
       ∃ t, exec (.cut p) s = .next t ∧ SameMemory s t ∧ (partAt t p).gencur = (partAt s p).gencur + 1 ∧
         (partAt t p).cuts = (partAt s p).cuts.filter (· != k) ∧
         (partAt t p).gens = (partAt s p).gens ++ [{ num := (partAt s p).gencur }] ∧
         ∀ x ∈ snapsParked s p, x.2.2.2 = k →
           (splitAt (groupAt t x.1) x.2.1).st = .ready ∧ (splitAt (groupAt t x.1) x.2.1).park = none ∧
           ∀ q ∈ bitsOf (quadsOfLanes (splitAt (groupAt s x.1) x.2.1).act), quadThere (groupAt s x.1) q →
             sGet (groupAt t x.1) q x.2.2.1 = BitVec.ofNat 32 (partAt s p).gencur) ∧
  (∀ (s : State) (g e : Nat) (d a b : Byte),
     let gr := groupAt s g
     let x := (sGet gr ((actingQuads s g e).headD 0) a.toNat).toNat
     (Clear s g e 0xC5 d.toNat a.toNat b.toNat →
       ∃ t r, exec (.genq d a b) s = .next (afterRun s t g e) ∧ SameMemory s t ∧ (groupAt t g).reqs = gr.reqs ++ [r] ∧
         r.what = .genq x ∧ r.file = .seq ∧ r.base = d.toNat ∧ r.regs = 2 ∧ (groupAt t g).quads = gr.quads) ∧
     (Clear s g e 0xC6 d.toNat a.toNat b.toNat → gr.part < s.parts.length → gr.reqs = [] → tilesDue s g = [] →
       groupAcked s g = true → clusterPerformed s g = true → 2 ≤ genState (partAt s gr.part) x →
       ∃ t, exec (.grel d a b) s = .next (endRun t g e) ∧ SameMemory s t ∧
         (∀ y ∈ (partAt t gr.part).gens, y.num ≠ x) ∧
         ((∃ y ∈ (partAt s gr.part).gens, y.num = x) → (x, 5) ∈ (partAt t gr.part).pastGens))) ∧
  (∀ (s : State) (p : Nat),
     (∀ blk sector lb, p < s.parts.length → sector < 2048 → (partAt s p).live = [lb] → lb.blk = blk → lb.full = false →
       lb.kind ≤ 1 → lb.filled.length < 2047 →
       ∃ t, exec (.backgroundCopier p blk sector) s = .next t ∧ SameMemory s t ∧
         (partAt t p).live = [{ lb with filled := setAdd sector lb.filled }]) ∧
     (∀ blk sector, p < s.parts.length → sector < 2048 →
       (∃ x ∈ (partAt s p).live, x.blk = blk ∧ x.kind = 0 ∧ x.full = false) →
       ∃ t, exec (.backgroundCopier p blk sector) s = .next t ∧ SameMemory s t ∧
         (partAt t p).live.filter (·.kind != 0) = (partAt s p).live.filter (·.kind != 0) ∧
         ∀ x ∈ (partAt t p).live, x.kind = 0 → x.blk = blk → sector ∈ x.filled) ∧
     (∃ t, exec (.sluice p) s = .next t ∧ SameMemory s t ∧ ((partAt s p).sluiceOn = false → t = s) ∧
       ∀ x b c rest, p < s.parts.length → (partAt s p).sluiceOn = true → (partAt s p).gens = [x] → x.code = 2 →
         (partAt s p).backings = [b] → reachesHbm x.num b = true → fillReads (partAt s p) b = false →
         (partAt s p).leftList = [] → (partAt s p).capFree = c :: rest →
         (partAt t p).backings = [{ b with frame := c, moved := true }] ∧ (partAt t p).capFree = rest ∧
         (partAt t p).hbmFree = (partAt s p).hbmFree ++ [b.frame] ∧ (partAt t p).gens = [{ x with code := 4 }]))

/-- R259, R262, R276: PRE_EMPTION adds the clusters to those that stand still, and what follows every step ends the
circuits of a workgroup whose core stands still once its runs have ended and its store queues are drained;
CONTEXT_RESUME of a cluster that runs at the aperture its context holds lets it go on, and takes its granules back,
which changes no memory where none was saved. R260: GRANULE_CLAIM of a granule that lies on a halted and quiet cluster
of the context, and is not yet saved, records it as saved; a granule that is saved is not written again. R243, R241:
TLBI by a group with nothing outstanding drops every cached translation of its partition, in every core and cluster,
that it names and no other; with no earlier access outstanding it goes on at once. -/
def Obligations.ContextsStopAndResume : Prop :=
  (∀ (s : State) (p c : Nat), p < s.parts.length →
     (∀ clusters, ∃ t, exec (.preEmption p clusters) s = .next t ∧ SameMemory s t ∧ t.groups = s.groups ∧
       (∀ k, k ∈ (partAt t p).preempted ↔ k ∈ (partAt s p).preempted ∨ (k ∈ clusters ∧ k < 12)) ∧
       t.wgs = s.wgs) ∧
     (∀ w ∈ (haltCircuits s).wgs, coreHalted s w.part w.core = true → (∀ g ∈ w.groups, groupQuiet (groupAt s g) = true) →
       ∀ c ∈ w.circuits, c.isOpen = false) ∧
     (c ∈ (partAt s p).preempted → physCluster s p c < 12 → (clusterAt s (physCluster s p c)).connected = true →
       heldAper s p c = (clusterAt s (physCluster s p c)).aper →
       ∃ t, exec (.contextResume p c) s = .next t ∧ c ∉ (partAt t p).preempted ∧
         ((∀ x ∈ (partAt s p).saved, granuleCluster x ≠ c) → SameMemory s t) ∧
         (partAt t p).saved = (partAt s p).saved.filter (fun x => granuleCluster x != c) ∧
         ∀ k, k ≠ c → (k ∈ (partAt t p).preempted ↔ k ∈ (partAt s p).preempted))) ∧
  (∀ (s : State) (p : Nat) (gr : Granule), p < s.parts.length →
     let c := granuleCluster gr
     ((partAt s p).saved.contains gr = true → exec (.granuleClaim p gr) s = .next s) ∧
     (granuleOk gr = true → c < (cfgOf s p).ceil → (partAt s p).preempted.contains c = true →
       (partAt s p).saved.contains gr = false → (∀ k, k < 8 → coreQuiet s p (8 * c + k) = true) →
       ∃ t, exec (.granuleClaim p gr) s = .next t ∧ (partAt t p).saved = (partAt s p).saved ++ [gr] ∧ t.groups = s.groups)) ∧
  (∀ (s : State) (g e : Nat) (d a b : Byte), Clear s g e 0x18 d.toNat a.toNat b.toNat →
     let gr := groupAt s g
     let xs := (actingQuads s g e).map fun k => sPair gr k a.toNat
     (splitAt gr e).park = none → gr.reqs = [] → tilesDue s g = [] → groupAcked s g = true → clusterPerformed s g = true →
     translatedBefore s gr.part s.nextId = false →
     ∃ t, exec (.tlbi d a b) s = .next (endRun t g e) ∧ SameMemory s t ∧ (groupAt t g).quads = gr.quads ∧
       t.tlb = s.tlb.filter (fun x => !(x.part == gr.part && xs.any fun y => tlbiHits d.toNat y x)) ∧
       t.ctlb = s.ctlb.filter fun x => !(x.part == gr.part && xs.any fun y => tlbiHits d.toNat y x))

/-! ## Engines -/

/-- R185, R186: GRES gives a guard slot its state, and of the workgroup's commands that have not started those at the
head whose slot then holds 0 are discarded, the first of the others is released if its slot holds 1, and all others stay
as they are. R186 to R188: COPY whose record passes its checks enters the command at the end of its workgroup's queue,
where fewer than eight stand, the cluster's range-lock table has room and no acquire of its lanes is outstanding; the
head of the queue is then held, released or discarded as its guard slot stands. R186, R189: COPY_COMMAND_START starts
the only released head of a core's queues. R189, R190: COPY_SECTOR of a sector that lies in one row, and is not the last
of a fill of the pool writes the fill word over it and nothing else; of a sector of global memory whose page is cached
or whose walk is served, and that passes its checks, it sends a request, and writes nothing. -/
def Obligations.CopyCommands : Prop :=
  (∀ (s : State) (g e : Nat) (d a b : Byte), Clear s g e 0xA8 d.toNat a.toNat b.toNat →
     let gr := groupAt s g
     let x := sGet gr ((actingQuads s g e).headD 0) a.toNat
     let guards := upd (wgAt s gr.wg).guards d.toNat fun _ => x
     gr.wg < s.wgs.length → d.toNat < (wgAt s gr.wg).guards.length → x.toNat < 3 →
     ((wgAt s gr.wg).commands.map (·.id)).Nodup →
     ∃ t, exec (.gres d a b) s = .next (afterRun s t g e) ∧ SameMemory s t ∧
       (wgAt t gr.wg).guards = guards ∧ (groupAt t g).idem = false ∧ (groupAt t g).quads = gr.quads ∧
       (wgAt t gr.wg).commands = queueAfter guards (wgAt s gr.wg).commands) ∧
  (∀ (s : State) (g e : Nat) (d a b : Byte), Clear s g e 0xB0 d.toNat a.toNat b.toNat →
     let gr := groupAt s g
     let v := envOf s g e 0xB0 d.toNat a.toNat b.toNat 0
     let c := copyRec v s.nextId
     (∃ l ∈ activeLanes s g e, (laneAt gr l).helper = false) → gr.wg < s.wgs.length →
     copyOk v (sGet gr v.q0 a.toNat).toNat c = true → copyMisaligned c = none →
     (wgAt s gr.wg).commands.length < 8 → clusterCommands s gr.part (clusterOf s g) < 64 →
     ((wgAt s gr.wg).commands.map (·.id)).Nodup → (∀ x ∈ (wgAt s gr.wg).commands, x.id ≠ s.nextId) →
     acquiresDue s g (activeLanes s g e) = false →
     ∃ t, exec (.copy d a b) s = .next (afterRun s t g e) ∧ SameMemory s t ∧
       (wgAt t gr.wg).commands = queueAfter (wgAt s gr.wg).guards ((wgAt s gr.wg).commands ++ [c]) ∧
       (groupAt t g).idem = false ∧ (groupAt t g).quads = gr.quads) ∧
  (∀ (s : State) (p core w : Nat) (c : Command), coreHalted s p core = false →
     positions (fun (w : Workgroup) => w.part == p && w.core == core) s.wgs = [w] → (wgAt s w).commands = [c] →
     c.released = true → c.started = false →
     ∃ t, exec (.copyCommandStart p core) s = .next t ∧ SameMemory s t ∧ (wgAt t w).commands = [{ c with started := true }]) ∧
  (∀ (s : State) (wg k row lo hi : Nat) (c : Command),
     let w := wgAt s wg
     wg < s.wgs.length → w.gang < s.gangs.length → w.commands = [c] → c.started = true → c.failed = none →
     c.done.contains k = false → c.ops = [] → (partAt s w.part).frozen = false → clockGated s w.part w.core = false →
     engineLoad s w.part w.core < 128 → readSpans c k = [(row, lo, hi)] →
     (c.kind = 9 → c.buf = [] → c.sent.contains k = false → copyDone { c with sent := setAdd k c.sent } = false →
       ∃ t, exec (.copySector wg c.id k) s = .next t ∧
         (wgAt t wg).commands = [{ c with done := setAdd k c.done, sent := setAdd k c.sent }] ∧
         ∀ l, homeByte t l =
           if l.space = .pool w.gang ∧ c.dst + row * c.dstride + lo ≤ l.addr ∧ l.addr < c.dst + row * c.dstride + hi
           then BitVec.ofNat 8 (c.fill.toNat / 256 ^ ((l.addr - (c.dst + row * c.dstride + lo)) % 4)) else homeByte s l) ∧
     ∀ loc, c.kind = 0 → copyDone c = false → lateWalkDue s wg (c.src + row * c.sstride + lo) c.cls = true →
       engineLoc s (.cluster (w.core / 8)) w.part w.core c.user (c.src + row * c.sstride + lo) .read = .ok loc →
       ∃ t o, exec (.copySector wg c.id k) s = .next t ∧ SameMemory s t ∧ (wgAt t wg).commands = [{ c with ops := [o] }] ∧
         o.k = k ∧ o.loc = loc ∧ o.stage = startStage s w.part loc)

/-- R191, R192: CHDEF enters a recipe that R191 admits under its number; CHASE of a defined recipe, with room in the
miss table, starts one walk for each acting lane that is no helper lane, at the node v[A], awaiting eleven words. R192,
R193: CHASE_HOP of a walk whose engine serves it, its pages cached or their walks served, with the bytes of the record
at NBASE + node × NSTRIDE, of its flag word, degree and adjacency pointer read. It ends with the node, the hops taken, a
status and the record's eight words: 2 where STOP is set and the flag bit is 1, else 0 after HOPS hops, else 1 for a
degree of 0. Otherwise it goes on, one hop further, to the node whose number is the word at the adjacency pointer + 4 ×
i, where i is r × degree / 16 and r the seed's four bits for this hop. A node at or beyond a node count that is not 0
ends it with status 3 and code 1, and a record that faults with status 3, the address and the code. -/
def Obligations.ChaseWalks : Prop :=
  (∀ (s : State) (g e : Nat) (d a b : Byte) (c : Recipe),
     let gr := groupAt s g
     let lanes := (actingLanes s g e 0xB1 a.toNat).filter fun l => !(laneAt gr l).helper
     (Clear s g e 0xB2 d.toNat a.toNat b.toNat → gr.part < s.parts.length →
       chaseRec (envOf s g e 0xB2 d.toNat a.toNat b.toNat 0) = some c →
       ∃ t, exec (.chdef d a b) s = .next (afterRun s t g e) ∧ SameMemory s t ∧
         (partAt t gr.part).recipes.find? (·.1 == d.toNat) = some (d.toNat, c)) ∧
     (Clear s g e 0xB1 d.toNat a.toNat b.toNat →
       (partAt s gr.part).recipes.find? (·.1 == b.toNat) = some (b.toNat, c) → lanes.length ≤ missFree s gr.part gr.core →
       ∃ t rs cs, exec (.chase d a b) s = .next (afterRun s t g e) ∧ SameMemory s t ∧
         (groupAt t g).reqs = gr.reqs ++ rs ∧ (groupAt t g).chases = gr.chases ++ cs ∧ (groupAt t g).quads = gr.quads ∧
         rs.map (·.lane) = lanes ∧ (∀ r ∈ rs, r.what = .walk ∧ r.base = d.toNat ∧ r.regs = 11) ∧
         cs.map (·.node) = lanes.map fun l => (vGet gr l a.toNat).toNat)) ∧
  (∀ (s : State) (g : Nat) (r : Req) (c : Chase),
     let gr := groupAt s g
     let n := c.recipe
     let record := n.nbase + c.node * n.nstride
     let read (va size : Nat) : HopRead := hopRead s g c (va % 2 ^ 64) size
     let ends (ws : List Word) : Prop := ∃ t q, exec (.chaseHop g c.id) s = .next t ∧ SameMemory s t ∧
       (groupAt t g).chases = [] ∧ (groupAt t g).reqs = [q] ∧ q.id = c.id ∧ q.data = some ws ∧ q.mark = 0 ∧ q.poisoned = false
     let words (status : Nat) : List Word := [BitVec.ofNat 32 c.node, BitVec.ofNat 32 c.h, BitVec.ofNat 32 status]
     let fault (code : Nat) : List Word := words 3 ++ [BitVec.ofNat 32 (record % 2 ^ 64),
       BitVec.ofNat 32 (record % 2 ^ 64 / 2 ^ 32), BitVec.ofNat 32 code] ++ List.replicate 5 0
     g < s.groups.length → gr.reqs = [r] → gr.chases = [c] → r.id = c.id → r.lane = c.lane → r.what = .walk → r.data = none →
     r.mark = 0 → r.poisoned = false → r.stage = .served → (partAt s gr.part).frozen = false → unperformed s g = [] →
     hopDue s g c r.slack = true →
     (n.ncount ≠ 0 → n.ncount ≤ c.node → ends (fault 1)) ∧
     (n.ncount = 0 ∨ c.node < n.ncount →
       (∀ code, read record 32 = .bad code none → code ≠ 13 → ends (fault code)) ∧
       ∀ first deg flag adj, read record 32 = .bytes first → read (record + n.degoff) 4 = .bytes deg →
         read (record + n.flagoff) 4 = .bytes flag → read (record + n.adjoff) 8 = .bytes adj →
         let stops := n.stop = true ∧ (leNat flag).testBit n.flagbit = true
         let record8 := (List.range 8).map fun i => BitVec.ofNat 32 (leNat first / 2 ^ (32 * i))
         (stops → ends (words 2 ++ record8)) ∧
         (¬ stops → c.h = n.hops → ends (words 0 ++ record8)) ∧
         (¬ stops → c.h ≠ n.hops → leNat deg = 0 → ends (words 1 ++ record8)) ∧
         ∀ next, ¬ stops → c.h ≠ n.hops → leNat deg ≠ 0 →
           let i := c.seed / 2 ^ (4 * c.h) % 16 * leNat deg / 16
           read (leNat adj + 4 * i) 4 = .bytes next →
           ∃ t, exec (.chaseHop g c.id) s = .next t ∧ SameMemory s t ∧
             (groupAt t g).chases = [{ c with node := leNat next, h := c.h + 1, links := [] }] ∧
             (groupAt t g).reqs = [{ r with stage := .chase }]))

/-! ## The curve and the register files -/

/-- R123, R108, R18: while no workgroup of its cluster stands halted, in a movable grid that admits the target, with one
split, no region, no frame and no reservation, APT of the aperture at which the workgroup runs returns 1 and APT of
another parks the split in STATE 8; outside a movable grid it returns 0 (no move being parked on the cluster). R109,
R110: CLUSTER_MOVE to the one target of every APT parked on a cluster, reached by every workgroup, admitted by a rail,
with no reservation, no result and no store outstanding: the cluster and its workgroups then run at the target, and
every quad keeps its registers, allocation and mode word. With targets that differ the move is refused, which leaves
memory, clusters and workgroups, and of each group the registers of its quads but for predicates, as they are. The
model's choices: a target that differs refuses the move at once (log entry 61), and the rail that supplies it is the one
of railFor (log entry 38). -/
def Obligations.ApertureMoves : Prop :=
  (∀ (s : State) (g e : Nat) (d a b : Byte), Clear s g e 0x0C d.toNat a.toNat b.toNat →
     let gr := groupAt s g
     let r := (gridOf s g).recd
     let returns (x : Word) : Prop :=
       ∃ t q, exec (.apt d a b) s = .next (afterRun s t g e) ∧ SameMemory s t ∧ (groupAt t g).quads = gr.quads ∧
         (groupAt t g).idem = false ∧ splitAt (groupAt t g) e = atTimeOf (stepPast (splitAt gr e) 1) (splitAt (groupAt t g) e) ∧
         (groupAt t g).reqs = gr.reqs ++ [q] ∧ q.file = .prd ∧ q.base = d.toNat % 16 ∧ q.regs = 1 ∧
         q.lanes = liveMask gr ∧ q.data = some [x]
     clusterHalted s gr.part (clusterOf s g) = false →
     (r.movable = false → aptParked s gr.part (clusterOf s g) = [] → returns 0) ∧
     (r.movable = true → r.alow ≤ a.toNat → a.toNat ≤ r.ahigh → (gr.splits.filter (·.valid)).length = 1 →
       gr.frame = none → gr.regions = [] → (wgOf s g).reserv = none →
       (a.toNat = (wgOf s g).aper → returns 1) ∧
       (a.toNat ≠ (wgOf s g).aper →
         ParksAt s g e true .atApt (some (.apt (d.toNat % 16) a.toNat)) (exec (.apt d a b) s)))) ∧
  (∀ (s : State) (p c t r : Nat) (x : Nat × Nat × Nat × Nat) (rest : List (Nat × Nat × Nat × Nat)),
     let ws := wgsOnCluster s p c
     let pc := physCluster s p c
     let groups := ws.flatMap (runningGroups s)
     let kept := fun (u : State) (w : Nat) => (wgAt u w).groups.flatMap fun g => (groupAt u g).quads.map fun q =>
       (q.q, q.alloc, q.slice, q.mode, q.s, q.lanes.map (·.v))
     clusterHalted s p c = false → aptParked s p c = x :: rest → x.2.2.2 = t →
     ((∃ y ∈ rest, y.2.2.2 ≠ t) → exec (.clusterMove p c) s = .next (refuseMove s p c) ∧
       let u := refuseMove s p c
       u = { s with groups := u.groups } ∧ u.groups.length = s.groups.length ∧
         ∀ g, (groupAt u g).quads.map (fun q => (q.q, q.alloc, q.slice, q.mode, q.s, q.lanes.map (·.v))) =
           (groupAt s g).quads.map fun q => (q.q, q.alloc, q.slice, q.mode, q.s, q.lanes.map (·.v))) ∧
     ((∀ y ∈ rest, y.2.2.2 = t) → 1 ≤ t → t ≤ 7 → (∃ g ∈ groups, groupParked (groupAt s g) = false) ∨
         (∀ g ∈ groups, parkedElsewhere (groupAt s g) = false) →
       (∀ k, k < 8 → ((ws.filter fun w => (wgAt s w).core == 8 * c + k).foldl
         (fun n w => n + groupsAtWidth (wgAt s w).wgsz (widthOf t)) 0) ≤ 128) →
       railFor s p pc t = some r → (∀ w ∈ ws, reached s t w = true ∧ (wgAt s w).reserv = none) →
       (∀ w ∈ ws, ∀ g ∈ (wgAt s w).groups, g < s.groups.length ∧ (groupAt s g).stopped = false ∧ (groupAt s g).storeQ = [] ∧
         ∀ q ∈ (groupAt s g).reqs, isPrefetch q.what = true) →
       (∀ w ∈ ws, (wgQuads s w).length ≤ 64) →
       ∃ u, exec (.clusterMove p c) s = .next u ∧ SameMemory s u ∧
         (pc < s.clusters.length → (clusterAt u pc).aper = t ∧ (clusterAt u pc).rail = r ∧ (clusterAt u pc).connected = true) ∧
         ∀ w ∈ ws, (wgAt u w).aper = t ∧ kept u w = kept s w))

/-- R124: RGROW to an allocation that every quad has returns 1 at once in the split's active lanes (log entry 33);
otherwise the split parks in STATE 7. R124: REGISTER_GROWTH of a parked RGROW with room in its slices raises the
allocation of every quad of its split, no register changing, and the split goes on after it with 1 in its predicate;
RGROW_FAILURE of a core whose groups are all parked there without room gives 0 to the youngest, whose allocations stay.
The model's choices: the status stands in the split's active lanes and the youngest group is the last placed (log entry
33), and of its splits the lowest entry fails (log entry 61). R125: RSHRK of a split none of whose given-up registers is
pending lowers the allocation of the quads that hold more; the registers below it keep their values, and nothing else
changes but what is known of the words given up. -/
def Obligations.RegisterFilesGrowAndShrink : Prop :=
  (∀ (s : State) (g e : Nat) (d a b : Byte), Clear s g e 0x0D d.toNat a.toNat b.toNat →
     let gr := groupAt s g
     let quads := bitsOf (splitAt gr e).qmask
     ((∀ k ∈ quads, 8 * a.toNat ≤ (quadAt gr k).alloc) →
       ∃ t q, exec (.rgrow d a b) s = .next (afterRun s t g e) ∧ SameMemory s t ∧ (groupAt t g).quads = gr.quads ∧
         (groupAt t g).reqs = gr.reqs ++ [q] ∧ q.file = .prd ∧ q.base = d.toNat % 16 ∧ q.regs = 1 ∧
         q.lanes = maskOf 64 (activeLanes s g e) ∧ q.data = some [1]) ∧
     ((∃ k ∈ quads, (quadAt gr k).alloc < 8 * a.toNat) →
       ParksAt s g e false .atRgrow (some (.rgrow (d.toNat % 16) (8 * a.toNat))) (exec (.rgrow d a b) s))) ∧
  (∀ (s : State) (g e q n : Nat),
     let gr := groupAt s g
     let sp := splitAt gr e
     let gs := (groupsOnCore s gr.part gr.core).filter fun h => groupRuns (groupAt s h)
     let ends (x : Bool) (alloc : Nat → Nat) (out : Out) : Prop :=
       ∃ t, out = .next t ∧ SameMemory s t ∧ (splitAt (groupAt t g) e).st = .ready ∧ (splitAt (groupAt t g) e).park = none ∧
         (splitAt (groupAt t g) e).pc = nextAddr sp sp.pc 1 ∧
         (∀ k, quadThere gr k → (quadAt (groupAt t g) k).alloc = alloc k ∧ (quadAt (groupAt t g) k).s = (quadAt gr k).s) ∧
         ∀ l, laneThere gr l → (laneAt (groupAt t g) l).v = (laneAt gr l).v ∧
           (pGet (groupAt t g) l q = if l ∈ bitsOf sp.act then x else pGet gr l q)
     sp.valid = true → sp.st = .atRgrow → sp.park = some (.rgrow q n) → 0 < q → q < 16 → coreHalted s gr.part gr.core = false →
     isTwoWord (opcodeOf (slotWord sp.line (slotOf sp.pc))) = false →
     (sp.halted = false → growRoom s g (bitsOf sp.qmask) n = true →
       ends true (fun k => if k ∈ bitsOf sp.qmask then max (quadAt gr k).alloc n else (quadAt gr k).alloc)
         (exec (.registerGrowth g e) s)) ∧
     (g ∈ gs → (∀ i, i < e → ((splitAt gr i).valid && (splitAt gr i).st == .atRgrow) = false) →
       (∀ h ∈ gs, (∃ sp ∈ (groupAt s h).splits, sp.valid = true ∧ sp.st = .atRgrow) ∧
         (∀ sp ∈ (groupAt s h).splits, sp.valid = true → sp.st ≠ .ready ∧ sp.st ≠ .issuing ∧ sp.st ≠ .waitBit ∧
           ∀ p m, sp.st = .atRgrow → sp.park = some (.rgrow p m) → growRoom s h (bitsOf sp.qmask) m = false) ∧
         (h = g ∨ (groupAt s h).wg < gr.wg ∨ ((groupAt s h).wg = gr.wg ∧ (groupAt s h).num < gr.num))) →
       ends false (fun k => (quadAt gr k).alloc) (exec (.rgrowFailure gr.part gr.core) s))) ∧
  (∀ (s : State) (g e : Nat) (d a b : Byte), Clear s g e 0x0E d.toNat a.toNat b.toNat →
     let gr := groupAt s g
     let n := 8 * a.toNat
     let more := fun k => k ∈ bitsOf (splitAt gr e).qmask ∧ n < (quadAt gr k).alloc
     (∀ k, more k → isPending gr .vec n ((quadAt gr k).alloc - n) = false) →
     ∃ t, exec (.rshrk d a b) s = .next (afterRun s t g e) ∧ OnlyGroup s t g ∧ RegsOnly gr (groupAt t g) e 1 ∧
       (∀ k, quadThere gr k → (more k → quadAt (groupAt t g) k = { quadAt gr k with alloc := n, lanes := (quadAt (groupAt t g) k).lanes }) ∧
         (¬ more k → quadAt (groupAt t g) k = quadAt gr k)) ∧
       ∀ l, laneThere gr l →
         laneAt (groupAt t g) l = { laneAt gr l with
           v := (laneAt (groupAt t g) l).v, poison := (laneAt (groupAt t g) l).poison, errV := (laneAt (groupAt t g) l).errV } ∧
         ∀ r, r < n → vGet (groupAt t g) l r = vGet gr l r)

/-! ## The matrix engine -/

/-- R199, R126: MACQ of a valid record, with no request and no reservation of its workgroup, sends a request whose
status is awaited; R199: MATRIX_ALLOCATOR grants a core's only request where its granules are free and the workgroup
holds none, and answers it. R201, R126: MREL without a reservation does nothing but close the region; with one, and no
MMA or accumulator command of the workgroup outstanding, it releases it, and otherwise it waits in STATE 2. R202: MSHP
of a record that passes its checks gives shape record D the record at s[A] of the lowest quad, with no tile latched; the
reservation keeps everything else. -/
def Obligations.ReservationsAndShapes : Prop :=
  (∀ (s : State) (g e : Nat) (d a b : Byte) (r : Reservation),
     let gr := groupAt s g
     (Clear s g e 0xB3 d.toNat a.toNat b.toNat → e ≠ 8 → matrixGrid s g = true → gr.wg < s.wgs.length →
       reservRec (envOf s g e 0xB3 d.toNat a.toNat b.toNat 0) = some r → reservOk s g r = true →
       (wgAt s gr.wg).macq = none → (wgAt s gr.wg).reserv = none →
       ∃ t q, exec (.macq d a b) s = .next (afterRun s t g e) ∧ SameMemory s t ∧ (groupAt t g).quads = gr.quads ∧
         (groupAt t g).idem = false ∧ (wgAt t gr.wg).macq = some (g, q.id, r) ∧ (wgAt t gr.wg).reserv = none ∧
         (groupAt t g).reqs = gr.reqs ++ [q] ∧ q.file = .prd ∧ q.base = d.toNat % 16 ∧ q.data = none) ∧
     ∀ p core w id, (wgAt s w).macq = some (g, id, r) → (wgAt s w).part = p → (wgAt s w).core = core →
       (∀ i, i ≠ w → (wgAt s i).part = p → (wgAt s i).core = core → (wgAt s i).macq = none) →
       let ok := (wgAt s w).reserv.isNone && granulesOf r ≤ freeGranules s p core
       ∃ t, exec (.matrixAllocator p core) s = .next t ∧ SameMemory s t ∧ (wgAt t w).macq = none ∧
         (wgAt t w).reserv = (if ok then some r else (wgAt s w).reserv) ∧
         ∀ x ∈ (groupAt t g).reqs, x.id = id → x.data = some [if ok then 1 else 0]) ∧
  (∀ (s : State) (g e : Nat) (d a b : Byte), Clear s g e 0xB4 d.toNat a.toNat b.toNat →
     let gr := groupAt s g
     let w := wgAt s gr.wg
     let past := modGroup s g fun gr => modSplit { gr with idem := false } e (stepPast · 1)
     e ≠ 8 → matrixGrid s g = true →
     (w.reserv = none → exec (.mrel d a b) s = .next (afterRun s (ran s past g e 0xB4 d.toNat a.toNat b.toNat) g e)) ∧
     (w.reserv ≠ none → mmasOf s gr.wg = [] → (∀ c ∈ w.commands, accSide c.kind = false) →
       exec (.mrel d a b) s = .next (endRun (modWg past gr.wg fun x => { x with reserv := none }) g e)) ∧
     (w.reserv ≠ none → (mmasOf s gr.wg ≠ [] ∨ ∃ c ∈ w.commands, accSide c.kind = true) →
       ParksAt s g e true .waitBit none (exec (.mrel d a b) s))) ∧
  (∀ (s : State) (g e : Nat) (d a b : Byte) (rv : Reservation), Clear s g e 0xB5 d.toNat a.toNat b.toNat →
     let gr := groupAt s g
     let r := fun i => (sGet gr ((actingQuads s g e).headD 0) (a.toNat + i)).toNat
     let brows := r 2 % 256
     e ≠ 8 → (wgAt s gr.wg).reserv = some rv → r 2 < 2 ^ 13 → r 3 < 2 ^ 16 → brows ≠ 0 → r 2 / 256 % 32 = rv.bfmt →
     rowSize rv.bfmt ≤ r 1 → r 1 ≤ 65536 → r 0 % 32 = 0 → r 1 % 32 = 0 →
     r 0 + (brows - 1) * r 1 + rowSize rv.bfmt ≤ poolEnd s g →
     ∃ t ver, exec (.mshp d a b) s = .next (afterRun s t g e) ∧ SameMemory s t ∧ (groupAt t g).quads = gr.quads ∧
       (wgAt t gr.wg).reserv = some { rv with
         shapes := upd rv.shapes d.toNat fun _ =>
           { defined := true, ver := ver, addr := r 0, stride := r 1, fmt := rv.bfmt, brows := brows, kstep := r 3 } })

/-- R204, R205, R126: MMA that passes its checks, with a place in the core's queue and no acquire of those lanes
outstanding, enters it with a row for each acting lane that is no helper lane; R50, R205: MMA_STEP of a queue's head
whose tile is latched gives every element of its rows in its window the value of the window sum, and no other element
changes (that one step performs every row of the MMA and takes it off the queue, where R205 goes quad-step by quad-step,
is the model's reading, log entry 28). -/
def Obligations.MatrixStepsAccumulate : Prop :=
  ∀ (s : State) (g e : Nat) (d a b : Byte) (rv : Reservation),
    let gr := groupAt s g
    let lanes := (actingLanes s g e 0xB6 a.toNat).filter fun l => !(laneAt gr l).helper
    let sh := nth {} rv.shapes b.toNat
    (Clear s g e 0xB6 d.toNat a.toNat b.toNat → lanes ≠ [] → e ≠ 8 → (wgAt s gr.wg).reserv = some rv → d.toNat < rv.windows →
      sh.defined = true → sh.brows = kOf rv.afmt → scaleBeyond rv sh d.toNat (lanes.map (tidOf gr)) = false →
      (coreAt s gr.part gr.core).mmas.length < 32 → coreKey s gr.part gr.core < s.cores.length → acquiresDue s g lanes = false →
      ∃ t m, exec (.mma d a b) s = .next (afterRun s t g e) ∧ SameMemory s t ∧ (groupAt t g).quads = gr.quads ∧
        (groupAt t g).idem = false ∧ (coreAt t gr.part gr.core).mmas = (coreAt s gr.part gr.core).mmas ++ [m] ∧
        m.wg = gr.wg ∧ m.window = d.toNat ∧ m.shape = sh ∧ m.lanes.map (·.lane) = lanes ∧
        ∀ ln ∈ m.lanes, ln.row = tidOf gr ln.lane ∧
          ln.a = (List.range 12).flatMap fun i => leBytes 4 (vGet gr ln.lane (a.toNat + i)).toNat) ∧
    ∀ core m rest tile, (partAt s (wgAt s m.wg).part).frozen = false → clockGated s (wgAt s m.wg).part core = false →
      let p := (wgAt s m.wg).part
      coreKey s p core < s.cores.length → (coreAt s p core).mmas = m :: rest → m.shape.tile = some tile →
      (wgAt s m.wg).reserv = some rv → rv.err = [] → rv.poison = [] → (coreAt s p core).checksumBad = false →
      (∀ o ∈ scaleReads rv m, o ∉ (wgAt s m.wg).errScale) → (m.lanes.map (·.row)).Nodup → m.window < 4 →
      ∃ t rv', exec (.mmaStep p core) s = .next t ∧ SameMemory s t ∧ (coreAt t p core).mmas = rest ∧
        (wgAt t m.wg).reserv = some rv' ∧
        (∀ ln ∈ m.lanes, ∀ j, j < 64 → cellGet 0 (accKey ln.row (64 * m.window + j)) rv'.acc =
          BitVec.ofNat 32 (mmaElem (wgAt s m.wg) rv m.shape tile ln (64 * m.window + j)).1) ∧
        ∀ row col, col < 256 → (row ∉ m.lanes.map (·.row) ∨ col / 64 ≠ m.window) →
          cellGet 0 (accKey row col) rv'.acc = cellGet 0 (accKey row col) rv.acc

/-- R206, R207: MZERO zeroes the elements of its rows; MWR gives sixteen elements of each acting lane's row v[A] on; MRD
reads them to v[D] on, with SATURATED where the row has saturated, and zeros into helper lanes. No queued MMA holds
those rows, and no acquire of the active lanes is outstanding. -/
def Obligations.AccumulatorRowsMove : Prop :=
  ∀ (s : State) (g e : Nat) (d a b : Byte) (rv : Reservation),
    let gr := groupAt s g
    let first := (sGet gr ((actingQuads s g e).headD 0) a.toNat).toNat
    let n := (sGet gr ((actingQuads s g e).headD 0) b.toNat).toNat
    let real := fun (op : Nat) => (actingLanes s g e op a.toNat).filter fun l => !(laneAt gr l).helper
    let acc := fun (c : Reservation) (row col : Nat) => cellGet 0 (accKey row col) c.acc
    e ≠ 8 → (wgAt s gr.wg).reserv = some rv → mmasOf s gr.wg = [] → acquiresDue s g (activeLanes s g e) = false →
    (Clear s g e 0xB7 d.toNat a.toNat b.toNat → first + n ≤ rv.rows →
      ∃ t rv', exec (.mzero d a b) s = .next (afterRun s t g e) ∧ SameMemory s t ∧ (groupAt t g).quads = gr.quads ∧
        (wgAt t gr.wg).reserv = some rv' ∧
        ∀ row col, col < 256 → acc rv' row col = if first ≤ row ∧ row < first + n then 0 else acc rv row col) ∧
    (Clear s g e 0xB9 d.toNat a.toNat b.toNat → b.toNat < 4 * rv.windows → b.toNat < 16 →
      ((real 0xB9).map (tidOf gr)).Nodup →
      ∃ t rv', exec (.mwr d a b) s = .next (afterRun s t g e) ∧ SameMemory s t ∧ (groupAt t g).quads = gr.quads ∧
        (wgAt t gr.wg).reserv = some rv' ∧
        (∀ l ∈ real 0xB9, ∀ j, j < 16 → acc rv' (tidOf gr l) (16 * b.toNat + j) = vGet gr l (a.toNat + j)) ∧
        ∀ row col, col < 256 → ((∀ l ∈ real 0xB9, tidOf gr l ≠ row) ∨ col / 16 ≠ b.toNat) →
          acc rv' row col = acc rv row col) ∧
    (Clear s g e 0xB8 d.toNat a.toNat b.toNat → b.toNat < 4 * rv.windows → rv.err = [] → rv.poison = [] →
      WritesLanes s g e 1 (actingLanes s g e 0xB8 a.toNat) d.toNat
        (fun l => if (laneAt gr l).helper then List.replicate 16 0
          else (List.range 16).map fun j => acc rv (tidOf gr l) (16 * b.toNat + j))
        (fun l => if !(laneAt gr l).helper && rv.overflow.contains (tidOf gr l) then flSaturated else 0)
        (exec (.mrd d a b) s))

/-! ## Launches and placement -/

/-- R222, R223, R18: LAUNCH of a group with nothing outstanding in a partition that is not frozen, whose quads' records,
each read after the lower quads' pending records were written, its pages cached or their walks served, parse to records
without a flaw or a dependency: each is given a queue entry, its pending completion record is written as zeros, and its
predicate returns 1; with no room in the queue the predicates return 0 and no memory changes. The older entries keep all
but the notes of which dependencies were stored to. R224, R225: DEPENDENCY_READ, due once the dependency has been stored
to or its STATUS differs from the one read (log entry 37), stores the STATUS that it reads; 3, 4 or 5 discards the
entry, whose record becomes skipped; where it is not due, nothing changes. PASSED_OVER_LIMIT lets an entry block later
ones once it has been passed over for 100 µs. -/
def Obligations.LaunchesEnterTheQueue : Prop :=
  (∀ (s : State) (g e : Nat) (d a b : Byte) (rcd : Nat → LaunchRec), Clear s g e 0x17 d.toNat a.toNat b.toNat →
     let gr := groupAt s g
     let p := gr.part
     let quads := (actingQuads s g e).filter fun k => (activeLanes s g e).any fun l => l / 4 == k && !(laneAt gr l).helper
     let old := (partAt s p).launchQ
     let v := envOf s g e 0x17 d.toNat a.toNat b.toNat 0
     let late := fun (u : State) (k : Nat) => launchLate { v with s := u } k
     let after := fun (n : Nat) => (quads.take n).foldl (fun u k => launchQuad v k (rcd k) (late u k)) s
     let plain := fun (l : List LaunchEntry) => l.map fun x => { x with due := [] }
     let answers (t : State) (x : Word) : Prop :=
       exec (.launch d a b) s = .next (afterRun s t g e) ∧ (groupAt t g).quads = gr.quads ∧
         (groupAt t g).reqs.map (·.lanes) = quads.map (fun k => maskOf 64 ((activeLanes s g e).filter (· / 4 == k))) ∧
         ∀ q ∈ (groupAt t g).reqs, q.file = .prd ∧ q.base = d.toNat % 16 ∧ q.data = some [x]
     quads ≠ [] → p < s.parts.length → (partAt s p).frozen = false → gr.reqs = [] → tilesDue s g = [] → groupAcked s g = true →
     clusterPerformed s g = true →
     (∀ n k, quads[n]? = some k → launchDue { v with s := after n } k = true ∧ submit { v with s := late (after n) k } k = .rcd (rcd k) ∧
       unitReady (late (after n) k) p (rcd k).crec 128 = true ∧ recordFlaw s p (rcd k) = none ∧ ∀ x ∈ (rcd k).deps, x = 0) →
     (old.length + quads.length ≤ 16 → ∃ t xs, answers t 1 ∧ plain (partAt t p).launchQ = plain (old ++ xs) ∧
       xs.map (fun x => { x.recd with home := none }) = quads.map rcd ∧ (∀ x ∈ xs, x.grid = none ∧ x.nextWg = 0) ∧
       SameMemory (quads.foldl (fun u k => unitWrite u p (rcd k).crec (leBytes 128 0)) s) t) ∧
     (16 ≤ old.length → ∃ t, answers t 0 ∧ SameMemory s t ∧ (partAt t p).launchQ = old)) ∧
  (∀ (s : State) (p e k v : Nat) (x : LaunchEntry), (partAt s p).launchQ[e]? = some x →
     let plain := fun (l : List LaunchEntry) => l.map fun x => { x with due := [] }
     (readDue s x k = false → exec (.dependencyRead p e k) s = .next s) ∧
     (k < 4 → k < x.seen.length → readDue s x k = true → readStatus s p (nth 0 x.recd.deps k) = some v → (∀ y ∈ x.seen, y < 3) →
       (v < 3 → ∃ t, exec (.dependencyRead p e k) s = .next t ∧ SameMemory s t ∧
         (partAt t p).launchQ[e]? = some { x with
           seen := upd x.seen k fun _ => v, due := setDel k x.due
           locs := upd x.locs k fun _ => unitSource s p (nth 0 x.recd.deps k) } ∧
         (partAt t p).launchQ.length = (partAt s p).launchQ.length) ∧
       (3 ≤ v → v ≤ 5 → recordReady s p x.recd.home = true →
         ∃ t, exec (.dependencyRead p e k) s = .next t ∧ SameMemory (writeUnrun s p x.recd 4) t ∧
           plain (partAt t p).launchQ = plain ((partAt s p).launchQ.eraseIdx e))) ∧
     ∀ since, x.passed = some since → ∃ t, exec (.passedOverLimit p e) s = .next t ∧ SameMemory s t ∧
       (partAt t p).launchQ[e]? = some (if since + 100000 ≤ s.now then { x with blocking := true } else x))

/-- R229, R91, R92: every group that GANG_PLACEMENT forms, where no message waits, starts as R229 says: split 0 at the
entry, the argument and indices in its sequencer registers, %tid and the global index in v0 and v1, zero in the others,
with helper lanes beyond %wgsz. R226, R228: where the first eligible entry fits, workgroups are placed or a rail is set.
-/
def Obligations.PlacedGroupsStart : Prop :=
  ∀ (s : State) (p : Nat), (partAt s p).hostQ = [] → (partAt s p).msgQ = [] → (partAt s p).frozen = false →
    ∃ t, exec (.gangPlacement p) s = .next t ∧
      (∀ g, s.groups.length ≤ g → g < t.groups.length →
        let gr := groupAt t g
        let r := (gridOf t g).recd
        let w := wgOf t g
        gr.part = p ∧ gr.super = false ∧ (splitAt gr 0).valid = true ∧ (splitAt gr 0).pc = entryPc r.entry ∧
        w.wgsz = r.wgsz ∧ r.alow ≤ w.aper ∧ w.aper ≤ r.ahigh ∧
        ∀ k, quadThere gr k → (quadAt gr k).alloc = r.regs ∧ modeOf gr k = 0 ∧
          (∀ i, sGet gr k i = [loWord r.args, hiWord r.args, w.wgid, BitVec.ofNat 32 r.wgsz].getD i 0) ∧
          ∀ l, l / 4 = k → laneThere gr l →
            (laneAt gr l).helper = decide (r.wgsz ≤ tidOf gr l) ∧ (laneAt gr l).p = 0 ∧
            ∀ i, vGet gr l i =
              [BitVec.ofNat 32 (tidOf gr l), w.wgid * BitVec.ofNat 32 r.wgsz + BitVec.ofNat 32 (tidOf gr l)].getD i 0) ∧
      ∀ e rest x, eligible s p = e :: rest → (partAt s p).launchQ[e]? = some x → (placeEntry s p e).isSome = true →
        (x.recd.coop = true ∨ (1 ≤ x.recd.gangf ∧ 1 ≤ x.recd.gangp)) →
        x.nextWg < (match x.grid with | some k => (gridAt s k).wgs | none => gridSize x.recd) →
        s.wgs.length < t.wgs.length ∨ ∃ r ∈ t.rails, r.busy = true

/-- R230, R231: JET_GRANT gives a free jet of a core that runs to the ready split that comes first in the order of R230
among those whose columns have lit ALU quads to spare and that were not granted before while another was ready (R232);
older ready splits are overdue from then on. -/
def Obligations.JetsGoByOrder : Prop :=
  ∀ (s : State) (p core g e : Nat),
    let s1 := each (groupsOnCore s p core) (fun g s => wake s g) s
    let issuing := coreSplits s1 p core .issuing
    let ready := coreSplits s1 p core .ready
    let used := issuing.flatMap fun x => splitColumns (groupAt s1 x.1) (wgOf s1 x.1).aper x.2
    let overdue := ready.filter fun x => (splitAt (groupAt s1 x.1) x.2).overdue
    let may := fun x => columnsFree s1 used overdue x && !(grantedTwice s1 ready x)
    issuing.length < 16 → coreHalted s p core = false → clockGated s p core = false → (g, e) ∈ ready →
    may (g, e) = true →
    (∀ y ∈ ready, y ≠ (g, e) → may y = true → readyBefore s1 y (g, e) = false) →
    ∃ t, exec (.jetGrant p core) s = .next t ∧ SameMemory s t ∧ (splitAt (groupAt t g) e).st = .issuing ∧
      (splitAt (groupAt t g) e).count = 0 ∧ (splitAt (groupAt t g) e).pc = (splitAt (groupAt s1 g) e).pc ∧
      ∀ y ∈ ready, y ≠ (g, e) → splitAt (groupAt t y.1) y.2 =
        { splitAt (groupAt s1 y.1) y.2 with
          overdue := (splitAt (groupAt s1 y.1) y.2).overdue ||
            decide ((splitAt (groupAt s1 y.1) y.2).age < (splitAt (groupAt s1 g) e).age) }

/-- R121, R235: WORKGROUP_RETIREMENT of a finished workgroup with nothing outstanding, in a partition that is not
frozen, frees its groups and reservation and counts it for its grid; the last one of a grid ends it, where an entry of
the confirmation list and its frames are free. R236: CANCELLATION of a running grid halts every workgroup of it; of an
entry none of which is placed removes it. -/
def Obligations.GridsEnd : Prop :=
  ∀ (s : State),
    (∀ wg, wg < s.wgs.length → (wgAt s wg).retired = false → (partAt s (wgAt s wg).part).frozen = false → wgFinished s wg = true → wgQuiet s wg = true →
      let k := (wgAt s wg).grid
      let gd := gridAt s k
      ∃ t, exec (.workgroupRetirement wg) s = .next t ∧ (wgAt t wg).retired = true ∧ (wgAt t wg).reserv = none ∧
        (∀ g ∈ (wgAt s wg).groups, g < s.groups.length → (groupAt t g).gone = true) ∧
        (k < s.grids.length → (gridAt t k).finished = gd.finished + 1 ∧
          (gridAt t k).wgdone = (if wgHalted s wg then gd.wgdone else gd.wgdone + 1)) ∧
        (k < s.grids.length → gd.ended = false → gd.handlerGroup = false → gd.finished + 1 = gd.placed →
          gd.placed = gd.wgs → (partAt s gd.part).confirm.length < 4096 →
          recordReady (releaseWg s wg) gd.part gd.recd.home = true → (gridAt t k).ended = true)) ∧
    ∀ p crec, crec < 2 ^ 64 →
      let plain := fun (l : List LaunchEntry) => l.map fun x => { x with due := [] }
      let va := BitVec.ofNat 64 crec
      let hit := fun (gd : Grid) =>
        gd.part == p && !gd.handlerGroup && !gd.ended && gd.forced == 0 && gd.recd.crec == va
      (∀ e x, (partAt s p).launchQ.findIdx? (fun x => x.recd.crec == va) = some e → (partAt s p).launchQ[e]? = some x → (∀ gd ∈ s.grids, hit gd = false) →
        recordReady s p x.recd.home = true →
        ∃ t, exec (.cancellation p crec) s = .next t ∧ plain (partAt t p).launchQ = plain ((partAt s p).launchQ.eraseIdx e) ∧
          SameMemory (writeUnrun s p x.recd 5) t) ∧
      (∀ k, (∀ x ∈ (partAt s p).launchQ, x.recd.crec ≠ va) → hit (gridAt s k) = true → k < s.grids.length →
        (∀ j, j < k → hit (gridAt s j) = false) →
        ∃ t, exec (.cancellation p crec) s = .next t ∧ (gridAt t k).forced = 5 ∧
          ∀ w ∈ gridWgs s k, ∀ g ∈ (wgAt s w).groups, g < s.groups.length →
            (groupAt t g).stopped = true ∧ (groupAt t g).quads = (groupAt s g).quads ∧
            ∀ sp ∈ (groupAt t g).splits, sp.halted = sp.valid)

/-! ## Messages and peers -/

/-- R217: an aligned 64-byte write into the message window joins the queue with the next sequence number; another write
is discarded; a read returns ones and leaves the queue as it is. R218, R219, R220, R279: where a handler group fits,
LAUNCH_HANDLER_SPAWN (MESSAGE_HANDLER_SPAWN) takes messages of one handler from the head of the queue; each group formed
starts at the handler's entry with its argument, the handler's number and the count in s0 to s3, and the fields of one
message in each thread. Where a rail must first be set, no message is taken yet. A message that names no handler is
discarded. The places of the fields in an entry of the message-handler table are the model's choice (log entry 61). -/
def Obligations.MessagesReachHandlers : Prop :=
  (∀ (s : State) (p off : Nat) (bytes : List Byte),
     let pt := partAt s p
     pt.cfg ≠ none → off < 4096 →
     (bytes.length = 64 → off % 64 = 0 → pt.frozen = false → pt.hostQ.length < 256 →
       ∃ t, exec (.messagePost p off bytes) s = .next t ∧ SameMemory s t ∧ (partAt t p).accepted = pt.accepted + 1 ∧
         (partAt t p).hostQ = pt.hostQ ++ [(bytes, pt.accepted % 2 ^ 32)]) ∧
     (bytes.length ≠ 64 ∨ off % 64 ≠ 0 →
       ∃ t, exec (.messagePost p off bytes) s = .next t ∧ (partAt t p).hostQ = pt.hostQ ∧
         (partAt t p).accepted = pt.accepted) ∧
     ∃ t, exec (.messageWindowRead p off) s = .next t ∧ t.lastRead = BitVec.allOnes 64 ∧ (partAt t p).hostQ = pt.hostQ) ∧
  (∀ (s : State) (p : Nat), (partAt s p).frozen = false →
     let pt := partAt s p
     let starts (t : State) (n handler : Nat) (sup : Bool) (entry arg : DWord) (vec : Nat → List Word) : Prop :=
       s.groups.length < t.groups.length ∧ ∀ g, s.groups.length ≤ g → g < t.groups.length →
         let gr := groupAt t g
         gr.part = p ∧ gr.super = sup ∧ (splitAt gr 0).valid = true ∧ (splitAt gr 0).pc = entryPc entry ∧
         ∀ k, quadThere gr k →
           (∀ i, sGet gr k i = [loWord arg, hiWord arg, BitVec.ofNat 32 handler, BitVec.ofNat 32 n].getD i 0) ∧
           ∀ l, l / 4 = k → laneThere gr l → (laneAt gr l).helper = decide (n ≤ tidOf gr l) ∧
             (tidOf gr l < n → ∀ i, vGet gr l i = (BitVec.ofNat 32 (tidOf gr l) :: vec (tidOf gr l)).getD i 0)
     (∀ m rest, pt.hostQ = m :: rest →
       let head := (msgWord m.1 0).toNat
       let (entry, arg) := nth (0, 0) (cfgOf s p).hht (head % 16)
       let run := leading (fun x => (msgWord x.1 0).toNat == head) pt.hostQ
       (16 ≤ head ∨ entry = 0 → ∃ t, exec (.launchHandlerSpawn p) s = .next t ∧ (partAt t p).hostQ = rest ∧
         t.groups = s.groups) ∧
       (head < 16 → entry ≠ 0 → handlersOf s p false < 4 →
         ∀ n u, spawnHandler p run.length false true entry (launchHandlerSeed arg run) s = some (n, u) →
         ∃ t, exec (.launchHandlerSpawn p) s = .next t ∧ n ≤ run.length ∧ (partAt t p).hostQ = pt.hostQ.drop n ∧
           (1 ≤ n → starts t n 0 true entry arg fun i =>
             BitVec.ofNat 32 (nth ([], 0) run i).2 :: (List.range 16).map (msgWord (nth ([], 0) run i).1)))) ∧
     ∀ m rest, pt.msgQ = m :: rest →
       let (entry, arg, sup) := messageHandler s p m.handler
       let run := leading (fun (x : Msg) => x.handler == m.handler) pt.msgQ
       (entry = 0 → ∃ t, exec (.messageHandlerSpawn p) s = .next t ∧ (partAt t p).msgQ = rest ∧ t.groups = s.groups) ∧
       (entry ≠ 0 → handlersOf s p true < 4 →
         ∀ n u, spawnHandler p run.length true sup entry (messageHandlerSeed arg m.handler run)
             (noteSpan p ((cfgOf s p).mht + BitVec.ofNat 64 (24 * m.handler)) 24 s) = some (n, u) →
         ∃ t, exec (.messageHandlerSpawn p) s = .next t ∧ n ≤ run.length ∧ (partAt t p).msgQ = pt.msgQ.drop n ∧
           (1 ≤ n → starts t n m.handler sup entry arg fun i =>
             let x := run.getD i default
             x.arg :: (List.range 8).map (nth 0 x.payload ·) ++ [BitVec.ofNat 32 x.source, x.wgid, x.tid])))

/-- R278, R280: AMSG of a group with nothing outstanding whose lanes reach their nodes, for which there is credit, sends
one message for each acting lane that is no helper lane, in lane order. R279: MESSAGE_ARRIVAL puts a message at the tail
of the queue. R245: PEER_LOSS ends everything of a partition that is aimed at the peer, or at a replica set of which it
is the primary: no store to it is left, its loads that had no result end with mark 13 and zero words, no message to it
is on its way. R167, R282: REPLICA_FORWARD makes the oldest store that the primary of a set has applied visible in the
replica, and changes no other byte; REPLICA_LOSS marks the set, and no load of the partition waits for the replica any
more. -/
def Obligations.MessagesAndPeers : Prop :=
  (∀ (s : State) (p : Nat),
     (∀ g e (d a b : Byte), Clear s g e 0xC0 d.toNat a.toNat b.toNat →
       let gr := groupAt s g
       let lanes := (actingLanes s g e 0xC0 a.toNat).filter fun l => !(laneAt gr l).helper
       let node := fun l => (vGet gr l b.toNat).toNat
       let sent := fun (x : Sent) => (x.wg, x.node, x.msg, x.slack)
       gr.part = p → p < s.parts.length → lanes ≠ [] → gr.reqs = [] → tilesDue s g = [] → groupAcked s g = true →
       clusterPerformed s g = true →
       (∀ l ∈ lanes, node l = 255 ∨ (node l < 255 ∧ ∃ inc, peerEntry s p (node l) = some (inc, true))) →
       (∀ l ∈ lanes, hasCredit s p (node l) (lanes.filter fun j => node j == node l).length = true) →
       ∃ t, exec (.amsg d a b) s = .next (afterRun s t g e) ∧ SameMemory s t ∧ (groupAt t g).quads = gr.quads ∧
         (groupAt t g).idem = false ∧
         (partAt t p).msgOut.map sent = (partAt s p).msgOut.map sent ++ lanes.map fun l =>
           (gr.wg, node l,
             { handler := d.toNat, payload := (List.range 8).map fun i => vGet gr l (a.toNat + i)
               arg := vGet gr l (b.toNat + 1), source := 255, wgid := (wgOf s g).wgid, tid := BitVec.ofNat 32 (tidOf gr l) },
             slackOf s g (Table.slkOf (modeOf gr (l / 4))))) ∧
     ∀ m, (partAt s p).frozen = false → (partAt s p).cfg ≠ none →
       (∀ i, m.source = 255 → arriving (partAt s p).msgOut m = some i →
         ∃ t, exec (.messageArrival p m) s = .next t ∧ SameMemory s t ∧ (partAt t p).msgQ = (partAt s p).msgQ ++ [m] ∧
           (partAt t p).msgOut = (partAt s p).msgOut.eraseIdx i) ∧
       (m.source < 255 → anyPort s p = true → (partAt s p).msgQ.length + msgsTo (partAt s p) 255 < 1024 →
         ∃ t, exec (.messageArrival p m) s = .next t ∧ SameMemory s t ∧ (partAt t p).msgQ = (partAt s p).msgQ ++ [m])) ∧
  (∀ (s : State) (p peer : Nat), peer < 256 → (partAt s p).cfg ≠ none →
     let aims (x : Space) : Prop := x = .peer (p * 256 + peer) ∨ ∃ j, j < 256 ∧ setPrimary s p j = some peer ∧ x = .peer (primaryOf p j)
     let there (w : Write) : Prop := w.part = p ∧ aims w.loc.space ∧ w.applied = false
     ∃ t, exec (.peerLoss p peer) s = .next t ∧ (∀ w ∈ t.flight, ¬ there w) ∧
       (∀ x ∈ (partAt t p).msgOut, x.node ≠ peer) ∧
       ∀ g, (groupAt s g).part = p → (∀ w ∈ (groupAt t g).storeQ, ¬ there w) ∧
         (∀ r ∈ (groupAt t g).reqs, ∀ l n, loadSpan r = some (l, n) → aims l.space → r.data ≠ none) ∧
         ∀ r ∈ (groupAt s g).reqs, ∀ l n, loadSpan r = some (l, n) → aims l.space → r.data = none →
           ∃ x ∈ (groupAt t g).reqs, x.id = r.id ∧ x.what = r.what ∧ x.lanes = r.lanes ∧ x.base = r.base ∧
             x.mark = 13 ∧ x.data = some (List.replicate r.regs 0)) ∧
  (∀ (s : State) (p set : Nat), p < s.parts.length →
     (∀ addr bytes a bs, (partAt s p).replFwd.find? (·.1 == set) = some (set, a, bs) → a + bs.length ≤ 2 ^ 52 →
       ∃ t, exec (.replicaForward p set addr bytes) s = .next t ∧
         (partAt t p).replFwd = (partAt s p).replFwd.eraseP (·.1 == set) ∧
         cellGet 0 set (partAt t p).replDone = cellGet 0 set (partAt s p).replDone + 1 ∧
         ∀ l, l.addr < 2 ^ 52 → homeByte t l =
           if l.space = .replica (p * 256 + set) ∧ a ≤ l.addr ∧ l.addr < a + bs.length
           then bs.getD (l.addr - a) 0 else homeByte s l) ∧
     (set < 256 → ∃ t, exec (.replicaLoss p set) s = .next t ∧ SameMemory s t ∧
       (∀ j, j ∈ (partAt t p).replicasLost ↔ j = set ∨ j ∈ (partAt s p).replicasLost) ∧
       ∀ g, (groupAt t g).part = p → ∀ r ∈ (groupAt t g).reqs, r.data = none → ∀ l n sx, r.what = .mem l n sx →
         l.space ≠ .replica (p * 256 + set)))

/-! ## Scans, throttles and control pages -/

/-- R333, R334: SCAN_DRAIN begins to drain the next batch of six cores of different clusters (the order of the batches
is the model's choice, log entry 53; no core being sent forward); SCAN of a drained core begins its scan. R335, R321,
R322: a scan that passes counts for every confirmation entry that names its core and ended before the drain, and one
that fails where a spare is left takes the spare and drops the entries that name the core. -/
def Obligations.ScansRotate : Prop :=
  ∀ (s : State) (core : Nat),
    ((∀ c ∈ s.cores, c.forward = false) → ∃ t, exec .scanDrain s = .next t ∧ SameMemory s t ∧
      t.scanPos = (s.scanPos + 1) % 16 ∧ (batchCores (s.scanPos % 16)).length = 6 ∧
      ((batchCores (s.scanPos % 16)).map (· / 8)).Nodup ∧
      ∀ c, c < s.cores.length → nth {} t.cores c =
        if c ∈ batchCores (s.scanPos % 16)
        then { nth {} s.cores c with draining := true, drainStart := s.now, forward := false } else nth {} s.cores c) ∧
    ((nth {} s.cores core).draining = true → ∃ t, exec (.scan core) s = .next t ∧
      (nth {} t.cores core).draining = false ∧ (nth {} t.cores core).scanning = true) ∧
    ∀ p n, core < 96 → servesAs s core = some (p, n) → (nth {} s.cores core).scanning = true → coreQuiet s p n = true →
      (partAt s p).finals = [] →
      (∃ t, exec (.scanCompletion core true) s = .next t ∧ (nth {} t.cores core).scanning = false ∧
        (partAt t p).confirm = ((partAt s p).confirm.map fun e =>
          if e.cores.getLsbD n && e.fin < (nth {} s.cores core).drainStart
          then { e with passed := e.passed ||| BitVec.twoPow 128 n } else e).filter fun e => (e.cores &&& ~~~e.passed) != 0) ∧
      (core / 8 < s.clusters.length → (clusterAt s (core / 8)).spares ≠ 0 →
        ∃ t, exec (.scanCompletion core false) s = .next t ∧ (nth {} t.cores core).scanning = false ∧
          (clusterAt t (core / 8)).spares = (clusterAt s (core / 8)).spares - 1 ∧
          (partAt t p).confirm = (partAt s p).confirm.filter fun e => !(e.cores.getLsbD n))

/-- R340, R358, Table 23.3: the throttles and trips take hold at their limits and end below their release values, in the
clusters of the die, on the rail, and in the stack; no other cluster and no other rail, no group, no partition and no
memory changes. The clock of every core whose cluster is on a tripped rail is gated, and the log, where it is not full,
records a trip, as its newest record where none of its timestamp is from a source above 15 (R353). The model keeps no
more of a power cap step than its count (log entry 44); the kind 5 and the details of the log records are its choice
(log entry 45). R341: DROOP_DETECTION enters a signature with confidence 1, or raises that of one it holds by 1 up to 3,
and a table of 64 grows no more; DROOP_PREDICTION of a signature held with confidence 2 or more stretches the clock for
64 cycles, and no other does; CONFIDENCE_DECAY lowers every confidence by 1 and frees the entries that reach 0. -/
def Obligations.LimitsAndDroop : Prop :=
  (∀ (s : State) (n x : Nat),
     let only (cs : List Nat) (f : Cluster → Cluster) (out : Out) : Prop :=
       ∃ t, out = .next t ∧ SameMemory s t ∧ t.groups = s.groups ∧ t.parts = s.parts ∧
         ∀ c, clusterAt t c = if c ∈ cs ∧ c < s.clusters.length then f (clusterAt s c) else clusterAt s c
     let logged (k : Nat) (out : Out) : Prop :=
       ∃ t r, out = .next t ∧ (s.obs.log.length < 1048576 → r ∈ t.obs.log) ∧ r.kind = 5 ∧ r.detail = k ∧ r.time = s.now ∧
         ((∀ x ∈ s.obs.log, x.boot = s.obs.boot → x.time = s.now → x.source ≤ 15) →
           t.obs.log.head? = some r ∧ r.seq = s.obs.logSeq)
     let rail (f : Rail → Rail) (out : Out) : Prop :=
       ∃ t, out = .next t ∧ SameMemory s t ∧ t.groups = s.groups ∧ t.parts = s.parts ∧ t.clusters = s.clusters ∧
         t.rails = upd s.rails (n - 1) f
     let onDie := fun c => c / 3 = n
     (n < 4 → 105 ≤ x → only (dieClusters n) (fun c => { c with thermal := true }) (exec (.coreThermal n x) s) ∧
       ∀ c ∈ dieClusters n, onDie c) ∧
     (n < 4 → x < 105 → exec (.coreThermal n x) s = .next s) ∧
     (n < 4 → x < 100 → only (dieClusters n) (fun c => { c with thermal := false }) (exec (.coreThermalRelease n x) s)) ∧
     (1 ≤ n → 1800 ≤ x → rail (fun r => { r with limited := true }) (exec (.railLimit n x) s)) ∧
     (1 ≤ n → x < 1750 → rail (fun r => { r with limited := false }) (exec (.railLimitRelease n x) s)) ∧
     (1 ≤ n → n ≤ 4 → 1875 ≤ x → rail (fun r => { r with tripped := true }) (exec (.railTrip n x) s) ∧
       logged n (exec (.railTrip n x) s)) ∧
     (1 ≤ n → x < 1700 → rail (fun r => { r with tripped := false }) (exec (.railTripRelease n x) s)) ∧
     (∀ p core, (nth {} s.rails (n - 1)).tripped = true → (clusterAt s (physCluster s p (core / 8))).rail = n →
       clockGated s p core = true) ∧
     (n < 12 → 110 ≤ x → n < s.hbmStacks.length → (∃ t, exec (.hbmTrip n x) s = .next t ∧ SameMemory s t ∧
         t.hbmStacks = upd s.hbmStacks n fun k => { k with tripped := true }) ∧ logged (256 + n) (exec (.hbmTrip n x) s)) ∧
     (n < 12 → x ≤ 100 → ∃ t, exec (.hbmTripRelease n x) s = .next t ∧ SameMemory s t ∧
       t.hbmStacks = upd s.hbmStacks n fun k => { k with tripped := false }) ∧
     (∃ t, exec (.powerCapStep x) s = .next t ∧ SameMemory s t ∧ t.obs = { s.obs with
       lowered := if s.obs.cap < x then min 20 (s.obs.lowered + 1) else 0 }) ∧
     (120 ≤ n ∨ 125 ≤ x → ∃ t, exec (.overheat n x) s = .next t ∧ t.off = true ∧ t.isReady = false ∧ t.groups = [] ∧
       t.hbm = [] ∧ t.cap = [] ∧ t.host = s.host) ∧
     (n < 120 → x < 125 → exec (.overheat n x) s = .next s)) ∧
  (∀ (s : State) (c : Nat) (sig : BitVec 24), c < s.clusters.length →
     let tab := (clusterAt s c).droop
     let holds := fun (l : List Droop) (k : Nat) => ∃ d ∈ l, d.sig = sig ∧ d.conf = k
     (∃ t, exec (.droopDetection c sig) s = .next t ∧ SameMemory s t ∧ (∀ k, k ≠ c → clusterAt t k = clusterAt s k) ∧
       ((∀ d ∈ tab, d.sig ≠ sig) → holds (clusterAt t c).droop 1) ∧
       (∀ k, holds tab k → holds (clusterAt t c).droop (min 3 (k + 1))) ∧
       (tab.length ≤ 64 → (clusterAt t c).droop.length ≤ 64)) ∧
     (∃ t, exec (.droopPrediction c sig) s = .next t ∧ SameMemory s t ∧ (∀ k, k ≠ c → clusterAt t k = clusterAt s k) ∧
       ((∃ k, 2 ≤ k ∧ holds tab k) → (clusterAt t c).droopCycles = (clusterAt s c).droopCycles + 64) ∧
       ((∀ k, 2 ≤ k → ¬ holds tab k) → (clusterAt t c).droopCycles = (clusterAt s c).droopCycles) ∧
       (clusterAt t c).droop.map (fun d => (d.sig, d.conf)) = tab.map fun d => (d.sig, d.conf)) ∧
     ∃ t, exec .confidenceDecay s = .next t ∧ SameMemory s t ∧
       ∀ d, d ∈ (clusterAt t c).droop ↔ ∃ o ∈ tab, d = { o with conf := o.conf - 1 } ∧ 2 ≤ o.conf)

/-- R6, R300, R343, Tables 19.3, 20.1, 22.5: what the accesses to a control page do: W1C bits clear, ERRDROP clears as
it is read, the RW registers take what is written and no other register does, ENERGYLO latches the high half for its
reader. That 0x20C and 0x21C, the high halves of GRHLIST and GRCLIST, ignore a write is the model's choice (log entry
61). -/
def Obligations.ControlPageRegisters : Prop :=
  ∀ (s : State) (p : Nat) (v : DWord), p < s.parts.length →
    let pt := partAt s p
    let only (f : Partition → Partition) (out : Out) : Prop :=
      ∃ t, out = .next t ∧ SameMemory s t ∧ t.groups = s.groups ∧ t.lastRead = s.lastRead ∧
        ∀ q, partAt t q = if q = p then f pt else partAt s q
    let writes (off : Nat) (f : Partition → Partition) : Prop := only f (exec (.registerWrite p off v) s)
    only (fun x => { x with invalcfg := x.invalcfg && !(v.getLsbD 2) }) (exec (.invalcfgClear p (loWord v)) s) ∧
    only (fun x => { x with errstat := x.errstat &&& ~~~(v.setWidth 16) }) (exec (.errstatClear p (loWord v)) s) ∧
    writes 0x104 (fun x => { x with errmask := v.setWidth 16 }) ∧ writes 0x10C (fun x => { x with errcons := loWord v }) ∧
    writes 0x200 (fun x => { x with sluiceOn := v.getLsbD 1, dropPolicy := v.getLsbD 0 }) ∧
    writes 0x208 (fun x => { x with grhlist := v }) ∧ writes 0x210 (fun x => { x with grhcnt := loWord v }) ∧
    writes 0x218 (fun x => { x with grclist := v }) ∧ writes 0x220 (fun x => { x with grccnt := loWord v }) ∧
    (∀ off, off ∉ [0x104, 0x10C, 0x200, 0x208, 0x210, 0x218, 0x220] → writes off id) ∧
    (∃ t, exec (.errdropRead p) s = .next t ∧ t.lastRead = zext pt.errdrop ∧ partAt t p = { pt with errdrop := 0 } ∧
      SameMemory s t) ∧
    ∀ req, pt.energy < 2 ^ 64 →
      (∃ t e, exec (.energyloRead p req) s = .next t ∧ SameMemory s t ∧ pt.energy ≤ e ∧ e < 2 ^ 64 ∧
        (partAt t p).energy = e ∧ t.lastRead = BitVec.ofNat 64 (e % 2 ^ 32) ∧
        cellGet 0 req (partAt t p).energyHi = BitVec.ofNat 32 (e / 2 ^ 32) ∧
        ∀ k, k ≠ req → cellGet 0 k (partAt t p).energyHi = cellGet 0 k pt.energyHi) ∧
      ∃ t, exec (.energyhiRead p req) s = .next t ∧ t.lastRead = zext (cellGet 0 req pt.energyHi) ∧ t.parts = s.parts

/-- R294, R297, R302: PARTITION_RELOAD of a record that is refused sets INVALCFG and keeps the configuration; one that
is admitted, once every leaving cluster is at rest, is applied and drops the partition's translations, and RELOAD reads
1 until what they had translated is done. PARTITION_RESET freezes a partition, after a reload that is being applied;
once every run of it has ended, it clears its queues and packets with a new incarnation and reads 0 again. That RELOAD
reads 1 for so long is log entry 42, and the reset's two steps and its order against a reload are log entry 43: both are
DEDUCED. That a frame list that is not aligned, or longer than its range, refuses the reload as an unowned frame does is
the model's choice (log entry 61). R301: BANDWIDTH_INTERVAL, once in each 1 µs interval, gives every partition its share
of a stack's bytes at its thermal step; MEMORY_THERMAL_STEP to another step is kept and told to every partition with a
share. -/
def Obligations.PartitionsReloadAndReset : Prop :=
  (∀ (s : State) (p : Nat) (cfg : PartCfg), p < s.parts.length →
     let pt := partAt s p
     let hbm := listFrames s pt.grhlist.toNat pt.grhcnt.toNat
     let cap := listFrames s pt.grclist.toNat pt.grccnt.toNat
     let lists := pt.grhlist.toNat % 4 = 0 ∧ pt.grclist.toNat % 4 = 0 ∧ pt.grhcnt.toNat ≤ 1048576 ∧
       pt.grccnt.toNat ≤ 2097152 ∧ listOwned s p cfg 0 pt.hbmList hbm = true ∧ listOwned s p cfg 1 pt.capList cap = true
     let busy := (leavingClusters s p cfg).filter fun k => !(wgsOnCluster s p k).isEmpty
     (p < 12 → s.off = false → s.isReady = true → pt.frozen = false → pt.fenceAt = none →
       (cfgOk s p cfg = false ∨ ¬ lists → exec (.partitionReload p cfg) s = .next (refuseReload s p)) ∧
       (cfgOk s p cfg = true → lists → (∀ k ∈ busy, clusterQuiet (preempt s p busy) p k = true) →
         ∃ t, exec (.partitionReload p cfg) s = .next t ∧ (partAt t p).cfg = some cfg ∧
           (partAt t p).reload = (partAt t p).fenceAt.isSome ∧ (∀ x ∈ t.tlb, x.part ≠ p) ∧ ∀ x ∈ t.ctlb, x.part ≠ p)) ∧
     (∀ n, p < 12 → s.off = false → s.isReady = true → pt.frozen = false → pt.fenceAt = some n →
       (translatedBefore s p n = true → exec (.partitionReload p cfg) s = .next s) ∧
       (translatedBefore s p n = false → ∃ t, exec (.partitionReload p cfg) s = .next t ∧ (partAt t p).reload = false ∧
         (partAt t p).fenceAt = none ∧ (partAt t p).frozen = pt.resetReads ∧ (partAt t p).cfg = pt.cfg)) ∧
     (pt.cfg ≠ none → pt.frozen = false → ∃ t, exec (.partitionReset p) s = .next t ∧ SameMemory s t ∧
       partAt t p = (if pt.reload then { pt with resetReads := true }
         else { pt with frozen := true, frozenAt := s.now, resetReads := true }) ∧ t.groups = s.groups) ∧
     (pt.cfg ≠ none → pt.frozen = true →
       (∀ g ∈ residentGroups s p, groupCounts (groupAt s g) = true → ∀ sp ∈ (groupAt s g).splits,
         sp.valid = true → sp.halted = true ∨ sp.st ≠ .issuing) →
       ∃ t, exec (.partitionReset p) s = .next t ∧ (partAt t p).frozen = false ∧ (partAt t p).resetReads = false ∧
         (partAt t p).inc = (pt.inc + 1) % 256 ∧ (partAt t p).launchQ = [] ∧ (partAt t p).hostQ = [] ∧
         (partAt t p).msgQ = [] ∧ (partAt t p).cfg = pt.cfg ∧ (∀ w ∈ t.flight, w.part = p → ofUnit w = true) ∧
         (∀ x ∈ t.tlb, x.part ≠ p) ∧ (∀ x ∈ t.ctlb, x.part ≠ p) ∧
         ∀ w, w < s.wgs.length → (wgAt s w).part = p → (wgAt t w).retired = true)) ∧
  (∀ (s : State),
     (s.now / 1000 ≤ s.interval → exec .bandwidthInterval s = .next s) ∧
     (s.interval < s.now / 1000 → ∃ t, exec .bandwidthInterval s = .next t ∧ SameMemory s t ∧ t.parts = s.parts ∧
       t.interval = s.now / 1000 ∧ ∀ st p, st < s.hbmStacks.length → p < 12 → (nth {} t.hbmStacks st).step = (nth {} s.hbmStacks st).step ∧
         nth 0 (nth {} t.hbmStacks st).credit p = (cfgOf s p).share * stepBytes (nth {} s.hbmStacks st).step) ∧
     ∀ st celsius, st < 12 → st < s.hbmStacks.length →
       let n := if celsius < 85 then 0 else if celsius < 95 then 1 else if celsius < 105 then 2 else 3
       ∃ t, exec (.memoryThermalStep st celsius) s = .next t ∧ (nth {} t.hbmStacks st).step = n ∧
         ((nth {} s.hbmStacks st).step = n → t = s) ∧
         ((nth {} s.hbmStacks st).step ≠ n → ∀ p, p < 12 → (cfgOf s p).share ≠ 0 →
           (partAt t p).errstat.getLsbD 13 = true))

/-! ## Rails, links, rings and the Observatory -/

/-- R339, R338: RAIL_WRITE sets FREE, and moves an empty rail to another aperture within the Observatory's bound, which
then is BUSY until RAIL_SETTLED (with the distributor's move of a cluster, where it set the rail); a rail that carries a
cluster keeps its aperture. R346, R347, Table 23.1: LNKCTL_WRITE takes its fields, and an enabled link that is off
trains; LINK_PARK of a full link with PARKEN, idle for PARKHOLD, keeps its two lowest good wavelengths; LINK_WAKE of a
parked link with WAKEQ packets waiting wakes it; WAKE_COMPLETE brings it to every wavelength that is neither retired nor
under reassignment, or down with fewer than two that are not retired; while a restripe is not acknowledged (R345)
neither changes the active set. R348: RING_LOCK_STEP moves no code by more than 4, that of a ring that is not locked not
at all, and leaves every code at most 4,095 and each fibre end within its heater limit. R349, R350, R345:
RING_SATURATION of a ring that has stood at a limit for 100 µs, where the links may restripe, takes the spare where it
is free, which excludes the wavelengths from it on, and otherwise retires the wavelength. -/
def Obligations.RailsAndLinks : Prop :=
  (∀ (s : State) (n : Nat) (v : Word), 1 ≤ n → n ≤ s.rails.length → n ≤ 4 →
     let r := nth {} s.rails (n - 1)
     let a := (v.extractLsb' 16 4).toNat
     let only (f : Rail → Rail) (cl : Cluster → Cluster) (out : Out) : Prop :=
       ∃ t, out = .next t ∧ SameMemory s t ∧ t.clusters = s.clusters.map cl ∧ nth {} t.rails (n - 1) = f r ∧
         ∀ k, k ≠ n - 1 → nth {} t.rails k = nth {} s.rails k
     (onRail s n ≠ [] → only (fun r => { r with free := v.getLsbD 29 }) id (exec (.railWrite n v) s)) ∧
     (onRail s n = [] → a < 8 → a ≠ r.aper → r.boundAper = 0 ∨ a = 0 ∨ a = r.boundAper →
       only (fun r => { r with free := v.getLsbD 29, aper := a, busy := true }) id (exec (.railWrite n v) s)) ∧
     only (fun r => { r with busy := false }) (fun c => if c.rail = n then { c with switching := false } else c)
       (exec (.railSettled n) s)) ∧
  (∀ (s : State) (n : Nat) (v : Word), n < s.links.length →
     let l := linkAt s n
     let becomes (st : LinkState) (active : BitVec 8) (out : Out) : Prop :=
       ∃ t, out = .next t ∧ SameMemory s t ∧ (linkAt t n).st = st ∧ (linkAt t n).active = active ∧
         (linkAt t n).retired = l.retired ∧ ∀ k, k ≠ n → linkAt t k = linkAt s k
     (v.getLsbD 0 = true → ∃ t, exec (.lnkctlWrite n v) s = .next t ∧ SameMemory s t ∧
       linkAt t n = { l with
         parkhold := v.extractLsb' 16 8, wakeq := v.extractLsb' 8 8, parken := v.getLsbD 1, enable := true
         st := if l.st = .off then .training else l.st, since := if l.st = .off then s.now else l.since }) ∧
     (v.getLsbD 0 = false → l.st ≠ .down → linkQueue s n = [] → becomes .off 0 (exec (.lnkctlWrite n v) s)) ∧
     (l.enable = true → l.st = .full → l.parken = true → l.acked = true → linkQueue s n = [] → l.since + parkholdNs l ≤ s.now →
       becomes .parked (maskOf 8 ((bitsOf (~~~l.retired)).take 2) &&& ~~~(tuningOf s n)) (exec (.linkPark n) s)) ∧
     (l.enable = true → l.acked = false → exec (.linkPark n) s = .next s ∧ exec (.wakeComplete n) s = .next s) ∧
     (l.st = .parked → wakeDepth l ≤ (linkQueue s n).length → becomes .waking l.active (exec (.linkWake n) s)) ∧
     (l.st = .waking ∨ l.st = .training → l.acked = true →
       becomes (if (bitsOf (~~~l.retired)).length < 2 then .down else .full)
         (if (bitsOf (~~~l.retired)).length < 2 then 0 else ~~~l.retired &&& ~~~(tuningOf s n)) (exec (.wakeComplete n) s))) ∧
  (∀ (s : State) (fe ring : Nat), fe < s.fibres.length →
     let f := nth {} s.fibres fe
     let at' := fun (u : State) => linkAt u (fe / 2 * 2)
     (f.codes.foldl (· + ·) 0 ≤ 40950 → (∀ i, nth 0 f.codes i ≤ 4095) → ∃ t, exec .ringLockStep s = .next t ∧ SameMemory s t ∧
       let f' := nth {} t.fibres fe
       f'.codes.length = f.codes.length ∧ f'.spare = f.spare ∧ f'.codes.foldl (· + ·) 0 ≤ 40950 ∧
         ∀ i, nth 0 f'.codes i ≤ 4095 ∧ nth 0 f'.codes i ≤ nth 0 f.codes i + 4 ∧ nth 0 f.codes i ≤ nth 0 f'.codes i + 4 ∧
           (f.locked.getLsbD i = false → nth 0 f'.codes i = nth 0 f.codes i)) ∧
     (∀ since, fe < 48 → fe / 2 * 2 + 1 < s.links.length → nth none f.stuck ring = some since → since + 100000 ≤ s.now →
       (f.spare = none → ring < 16 → (at' s).acked = true → (linkAt s (fe / 2 * 2 + 1)).acked = true → ∃ t, exec (.ringSaturation fe ring) s = .next t ∧ SameMemory s t ∧
         (nth {} t.fibres fe).spare = some ring ∧
         (∀ j, j < 8 → (at' t).active.getLsbD j = ((at' s).active.getLsbD j && decide (j < ring))) ∧
         (at' t).retired = (at' s).retired ∧ (fe % 2 = 0 → (at' t).txspare = true) ∧ (fe % 2 = 1 → (at' t).rxspare = true)) ∧
       ∀ i, f.spare = some i → i < 16 → ring < 17 → ring ≠ i →
         let w := if i < ring then ring - 1 else ring
         (linkAt s (fe / 2 * 2 + w / 8)).acked = true → ∃ t, exec (.ringSaturation fe ring) s = .next t ∧ SameMemory s t ∧
           let l := linkAt t (fe / 2 * 2 + w / 8)
           l.retired = (linkAt s (fe / 2 * 2 + w / 8)).retired ||| BitVec.twoPow 8 (w % 8) ∧
           l.active.getLsbD (w % 8) = false ∧
           ((bitsOf (~~~l.retired)).length < 2 → l.st = .down)))

/-- R354, R352: while there is no owner CLAIM waits with the other claims of its timestamp; once time passes it, the one
of the lowest source number is elected and logged, its record the newest where none of its timestamp is from a higher
source (the kind 4 of the record is the model's choice, log entry 45), and every other is answered 1. The owner's
RELEASE ends ownership, its HANDOVER offers it for 1 s, in which that claimant's CLAIM takes it and after which
HANDOVER_EXPIRY drops the offer; a claimant that is not the owner is answered 1. OWNERSHIP_LAPSE ends ownership, that of
the management port only 10 s after its last HEARTBEAT. R352, R353, R357, R338, R340: a response is made of messages of
64 bytes with the status in byte 0, what it carries from byte 8 of each (the place is the model's choice, log entry 72).
A claimant that is heard is answered: GAUGE with 4 bytes, LOGREAD with a record the log holds, QUOTE with 256 bytes that
begin with the magic and hold its nonce; the owner's POWERCAP, CLAMP and RAILBOUND take hold within their limits; any
other claimant is answered 1, and nothing else of the module changes. A cap above 3,600 W is answered 2 and, the bound
having acted (R358), logged. -/
def Obligations.ObservatoryAnswers : Prop :=
  (∀ (s : State) (w : Claimant),
     let o := s.obs
     let answers (t : State) (status : Nat) : Prop := t.obs.answers = upd o.answers (sourceOf w) fun _ => messages status []
     (hears s w true = true →
       (o.owner = none → ∃ t, exec (.claim w) s = .next t ∧ w ∈ t.obs.claims ∧ (∀ c ∈ o.claims, c ∈ t.obs.claims) ∧
         t = { s with obs := { o with claims := t.obs.claims } }) ∧
       (∀ c, o.owner = some c → c ≠ w →
         (∀ until', o.offer = some (w, until') → s.now ≤ until' →
           ∃ t, exec (.claim w) s = .next t ∧ answers t 0 ∧ t.obs.owner = some w ∧ t.obs.offer = none) ∧
         ((∀ until', o.offer ≠ some (w, until')) →
           ∃ t, exec (.claim w) s = .next t ∧ answers t 1 ∧ t.obs.owner = some c))) ∧
     (∀ later, s.now < later → w ∈ o.claims → (∀ c ∈ o.claims, sourceOf w ≤ sourceOf c) → o.answers.length = 3 →
       let t := advance s later
       t.now = later ∧ t.obs.owner = some w ∧ t.obs.claims = [] ∧ nth [] t.obs.answers (sourceOf w) = messages 0 [] ∧
         (∀ c ∈ o.claims, c ≠ w → nth [] t.obs.answers (sourceOf c) = messages 1 []) ∧
         ∃ r : LogRec, r.kind = 4 ∧ r.time = s.now ∧ r.source = sourceOf w ∧ (o.log.length < 1048576 → r ∈ t.obs.log) ∧
           ((∀ x ∈ o.log, x.boot = o.boot → x.time = s.now → x.source ≤ sourceOf w) → t.obs.log.head? = some r)) ∧
     (hears s w false = true →
       (o.owner ≠ some w → ∃ t, exec (.release w) s = .next t ∧ answers t 1 ∧ t.obs.owner = o.owner) ∧
       (o.owner = some w → ∃ t, exec (.release w) s = .next t ∧ answers t 0 ∧ t.obs.owner = none ∧ t.obs.offer = none) ∧
       (∀ c, o.owner = some w → ∃ t, exec (.handover w (sourceOf c)) s = .next t ∧ answers t 0 ∧ t.obs.owner = some w ∧
         t.obs.offer = some (c, s.now + 1000000000))) ∧
     (∃ t, exec .handoverExpiry s = .next t ∧ t.obs.owner = o.owner ∧
       ∀ x, t.obs.offer = some x ↔ o.offer = some x ∧ s.now ≤ x.2) ∧
     (∃ t, exec .ownershipLapse s = .next t ∧ t.obs.owner =
       if o.owner = some .board ∧ s.now < o.heartbeat + 10000000000 then some .board else none) ∧
     ∃ t, exec .heartbeat s = .next t ∧ t.obs.heartbeat = s.now ∧ t.obs.owner = o.owner ∧ SameMemory s t) ∧
  ((∀ (x : Nat) (b : List Byte), x < 4 →
     (∀ m ∈ messages x b, m.length = 64 ∧ m.head? = some (BitVec.ofNat 8 x)) ∧
     messages x b ≠ [] ∧ ((messages x b).flatMap (·.drop 8)).take b.length = b) ∧
   ∀ (s : State) (w : Claimant),
     let o := s.obs
     let status (t : State) (x : Nat) : Prop := t.obs.answers = upd o.answers (sourceOf w) fun _ => messages x []
     let answers (x : Nat) (bytes : List Byte → Prop) (out : Out) : Prop :=
       ∃ b, bytes b ∧ out = .next { s with obs := { o with answers := upd o.answers (sourceOf w) fun _ => messages x b } }
     (hears s w true = true →
       (∀ n, answers 0 (fun r => r.length = 4) (exec (.gauge w n) s)) ∧
       ∀ seq, (∀ r, o.log.find? (·.seq == seq) = some r → answers 0 (· = logImage r) (exec (.logread w seq) s)) ∧
         ((∀ r ∈ o.log, r.seq ≠ seq) → answers 2 (· = []) (exec (.logread w seq) s))) ∧
     (hears s w false = true →
       (∀ nonce : List Byte, nonce.length = 32 → answers 0 (fun r => r.length = 256 ∧ (r.drop 8).take 32 = nonce ∧
         r.take 4 = leBytes 4 0x51544F5A ∧ (r.drop 40).take 8 = leBytes 8 s.now) (exec (.quote w nonce) s)) ∧
       ∀ watts mask aper rail amps,
         (o.owner ≠ some w → answers 1 (· = []) (exec (.powercap w watts) s) ∧
           answers 1 (· = []) (exec (.clamp w mask aper) s) ∧ answers 1 (· = []) (exec (.railbound w rail aper amps) s)) ∧
         (o.owner = some w →
           (1000 ≤ watts → watts ≤ 3600 → ∃ t, exec (.powercap w watts) s = .next t ∧ status t 0 ∧ t.obs.cap = watts) ∧
           (watts < 1000 → answers 2 (· = []) (exec (.powercap w watts) s)) ∧
           (3600 < watts → ∃ t, exec (.powercap w watts) s = .next t ∧ status t 2 ∧ t.obs.cap = o.cap ∧
             SameMemory s t ∧ t.obs.logSeq = o.logSeq + 1 ∧
             (o.log.length < 1048576 → ∃ r ∈ t.obs.log, r.time = s.now ∧ r.boot = o.boot ∧ r.kind = 7)) ∧
           (aper < 8 → ∃ t, exec (.clamp w mask aper) s = .next t ∧ status t 0 ∧
             ∀ c, c < s.clusters.length → clusterAt t c =
               if mask.getLsbD c then { clusterAt s c with clamp := aper } else clusterAt s c) ∧
           (1 ≤ rail → rail ≤ 4 → rail ≤ s.rails.length → aper < 8 → (∀ x ∈ amps, x ≤ 4095) →
             ∃ t, exec (.railbound w rail aper amps) s = .next t ∧ status t 0 ∧
               nth {} t.rails (rail - 1) = { nth {} s.rails (rail - 1) with boundAper := aper, boundAmps := amps }))))

/-- R356, R360: the owner's IMGWRITE changes 32 bytes of the inactive slot and ACTIVATE marks it; OBSERVATORY_BOOT runs
the first slot of its order that qualifies, which leaves the clusters of a module that was not in recovery running, or
recovers with no cluster powered; a trial ends after 60 s by TRIAL_EXPIRY, or with IMAGE_CONFIRM, which makes its slot
the active one. MODULE_RESET counts a boot, clears memory, partitions and groups, keeps the log, to which it only adds,
and begins the scan of every core that serves and of every spare, before which the module is not ready. The boot order
and what a module reset keeps are DEDUCED (log entries 46 and 55), and what recovery leaves of a module that ran is the
model's choice (log entry 75). -/
def Obligations.ImagesBoot : Prop :=
  ∀ (s : State) (w : Claimant),
    let o := s.obs
    let inactive := fun (o : Observatory) => if o.activeB then o.slotA else o.slotB
    let ran := fun (t : State) (order : List Bool) => t.obs.boot = o.boot ∧ t.obs.marked = false ∧
      (∀ b, order.find? (qualifies s) = some b → t.obs.recovery = false ∧ t.obs.runningB = b ∧
        (t.obs.trial = if b = o.activeB then none else some s.now) ∧
        (o.recovery = false → SameMemory s t ∧ t.groups = s.groups ∧ t.rails = s.rails)) ∧
      (order.find? (qualifies s) = none → t.obs.recovery = true ∧ t.obs.trial = none ∧ t.groups = [] ∧ t.isReady = false ∧
        (∀ r ∈ t.rails, r.aper = 0) ∧ ∀ c, (clusterAt t c).connected = false)
    (hears s w false = true → o.recovery = false → o.owner = some w →
      (∀ off (bytes : List Byte), bytes.length = 32 → ∃ t, exec (.imgwrite w off bytes) s = .next t ∧
        (∀ a, cellGet 0 a (inactive t.obs).bytes =
          if off ≤ a ∧ a < off + 32 then bytes.getD (a - off) 0 else cellGet 0 a (inactive o).bytes) ∧
        t.obs.activeB = o.activeB ∧ (if o.activeB then t.obs.slotB = o.slotB else t.obs.slotA = o.slotA)) ∧
      ∃ t, exec (.activate w) s = .next t ∧ t.obs.marked = true ∧ t.obs.activeB = o.activeB ∧ t.obs.owner = some w) ∧
    (∃ t, exec .observatoryBoot s = .next t ∧ ran t (if o.marked then [!o.activeB, o.activeB] else [o.activeB, !o.activeB])) ∧
    (∀ since, o.trial = some since →
      (since + 60000000000 ≤ s.now → ∃ t, exec .trialExpiry s = .next t ∧ ran t [!o.runningB, o.runningB]) ∧
      (s.now < since + 60000000000 → exec .trialExpiry s = .next s) ∧
      ∃ t, exec .imageConfirm s = .next t ∧ SameMemory s t ∧ t.obs.activeB = o.runningB ∧ t.obs.trial = none ∧
        o.fuse ≤ t.obs.fuse) ∧
    ∃ t, exec .moduleReset s = .next t ∧ t.now = 0 ∧ t.groups = [] ∧ t.hbm = [] ∧ t.cap = [] ∧
      t.parts = List.replicate 12 {} ∧ t.off = false ∧ t.isReady = false ∧ (t.obs.recovery = false →
        (∀ k, k < 96 → (nth {} t.cores k).scanning = (nth 255 (clusterAt s (k / 8)).goodCores (k % 8) != 255)) ∧
        ∀ c, c < s.clusters.length → (clusterAt t c).spareScan = ((clusterAt s c).spares != 0)) ∧
      t.host = s.host ∧ t.obs.owner = none ∧
      ((∀ r ∈ o.log, r.boot ≤ o.boot) → o.log.length + 48 ≤ 1048576 → o.log <:+ t.obs.log) ∧
      t.obs.boot = o.boot + 1 ∧ t.obs.fuse = o.fuse ∧
      t.links.map (fun l => (l.retired, l.rxspare, l.txspare)) = s.links.map fun l => (l.retired, l.rxspare, l.txspare)

/-! ## Encoding, the step, the whole machine -/

/-- R8, R9, R30: the words of every well-formed instruction, little-endian in memory and whatever follows them, decode
to it. R8, R9: whatever bytes decode, the encoder gives back exactly the bytes that were read, and what the decoder
leaves is what follows them: every bit of an instruction's words is in its fields. -/
def Obligations.DecodeOfEncode : Prop :=
  (∀ (i : Instr) (ws : List Word) (rest : List Byte), i.wf = true → encode i = some ws →
     decode (ws.flatMap bytesOfWord ++ rest) = .ok (i, rest)) ∧
  (∀ (bytes : List Byte) (i : Instr) (rest : List Byte), decode bytes = .ok (i, rest) →
     ∃ bs, encodeBytes i = some bs ∧ bytes = bs ++ rest ∧ (bs.length = 4 ∨ bs.length = 8))

/-- Table 3.1, R8, R9, R30: words written out from the encodings decode to their instructions. -/
def Obligations.WordsDecode : Prop :=
  decode [0x02, 0x01, 0x03, 0x20] = .ok (.add 3 1 2, []) ∧
  decode [0x00, 0x05, 0x10, 0x01, 0xFE, 0xFF, 0xFF, 0xFF] = .ok (.bra 0x10 5 0 0xFFFFFFFE, []) ∧
  decode [0x34, 0x12, 0x07, 0x3A, 0xAA] = .ok (.movi 7 0x12 0x34, [0xAA]) ∧
  decode [0x00, 0x00, 0x04, 0x3C, 0x78, 0x56, 0x34, 0x12] = .ok (.lit 4 0 0 0x12345678, []) ∧
  decode [0x08, 0x02, 0x04, 0x80] = .ok (.ld 4 2 8, []) ∧
  decode [0x06, 0x02, 0xFF, 0x90] = .ok (.aadd 255 2 6, []) ∧
  decode [0x04, 0x10, 0x00, 0xB6] = .ok (.mma 0 16 4, []) ∧
  decode [0x01, 0x02, 0x03, 0xFF] = .ok (.unassignedOpcode 0xFF030201, []) ∧
  decode [0x00, 0x00, 0x04, 0x63, 0x78] = .error .truncatedLiteral

/-- R17, R14, R13: where a split that may issue holds the line of its PC, at one of its slots, waits for nothing, owes
no fault and would not stall more than 8 cycles (R61), a step runs the instruction that the bytes at its PC decode to;
where it holds another line, the step fetches; an event whose turn it is happens. Before that only the agenda, the count
of steps and the issuing split's name move; after it, what follows of itself. -/
def Obligations.StepsRunWhatDecodes : Prop :=
  ∀ (s : State) (g e : Nat) (rest : List Turn) (i : Instr) (tail : List Byte),
    let sp := splitAt (groupAt s g) e
    let off := sp.pc.toNat % 128
    let before (cur : Option (Nat × Nat)) : State := { s with agenda := rest, tick := s.tick + 1, cur := cur }
    (s.agenda = .issue g e :: rest → mayIssue s g e = true → (sp.rejoin ≠ 0 ∨ sp.owed = []) →
      (lineHere sp = false → step s = settledStep (before none) (exec (.fetchLine g e) (before none))) ∧
      (lineHere sp = true → sp.arrive = [] → slotOf sp.pc ≤ hdrLast (lineHeader sp.line) → 16 ≤ off → off % 4 = 0 →
        decode (sp.line.drop off) = .ok (i, tail) → stallsLong s g e = false →
        (waits sp = false ∨ sp.park ≠ none ∨
          (splitAwaits (groupAt s g) e = false ∧ sp.count = 0 ∧ ∀ l ∈ bitsOf sp.act, (laneAt (groupAt s g) l).mark = none)) →
        step s = settledStep (before none) (exec i (before (some (g, e)))))) ∧
    (s.agenda = .act i :: rest → isEvent i = true → step s = settledStep (before none) (exec i (before none)))

/-- R360: after reset every memory is in canonical form (log entry 2), and reads zero; that host, peer and replica
memory does is the model's choice (log entry 3). -/
def Obligations.ResetMemoriesAreCanonical : Prop := memoriesWf State.reset = true ∧ ∀ l, homeByte State.reset l = 0

/-- Every step keeps every memory in canonical form: the model's own invariant (log entry 2), so that equal memories are
equal data. -/
def Obligations.StepsKeepMemoriesCanonical : Prop :=
  ∀ (s s' : State), memoriesWf s = true → step s = .next s' → memoriesWf s' = true
end

