-- ==== Sys2Proof/Laws/Cells.lean ====
section
/-!
SUPPORT. Laws of the sparse maps and of the lists that State is made of: reading after writing, and the canonical form.
-/

namespace Sys2Proof.Machine

theorem cellGet_ins {α : Type} (dflt : α) (k j : Nat) (x : α) (c : Cells α) :
    cellGet dflt j (cellIns k x c) = if j = k then x else cellGet dflt j c := by
  induction c with
  | nil => simp only [cellIns, cellGet]; split <;> split <;> simp_all
  | cons e r ih =>
    obtain ⟨i, y⟩ := e
    unfold cellIns
    split
    · simp only [cellGet]; by_cases h : k = j <;> simp [h, eq_comm]
    · split
      · rename_i _ hk; subst hk; simp only [cellGet]; by_cases h : k = j <;> simp [h, eq_comm]
      · simp only [cellGet, ih]; by_cases h : i = j
        · subst h; simp; intro hk; omega
        · simp [h]

theorem cellGet_filter {α : Type} (dflt : α) (k j : Nat) (c : Cells α) :
    cellGet dflt j (c.filter fun e => e.1 != k) = if j = k then dflt else cellGet dflt j c := by
  induction c with
  | nil => simp [cellGet]
  | cons e r ih =>
    obtain ⟨i, y⟩ := e
    by_cases hi : i = k
    · subst hi; simp only [List.filter_cons, bne_self_eq_false, cellGet]
      rw [if_neg (by simp), ih]; by_cases h : j = i <;> simp [h]
      intro hk; exact absurd hk.symm h
    · rw [List.filter_cons, if_pos (by simpa using hi)]
      simp only [cellGet, ih]; by_cases h : i = j
      · subst h; simp [hi]
      · simp [h]

/-- Reading a map after a write, whatever form the list has. -/
theorem cellGet_put {α : Type} [DecidableEq α] (dflt : α) (k j : Nat) (x : α) (c : Cells α) :
    cellGet dflt j (cellPut dflt k x c) = if j = k then x else cellGet dflt j c := by
  unfold cellPut; split
  · rename_i h; subst h; exact cellGet_filter _ _ _ _
  · exact cellGet_ins _ _ _ _ _

@[simp] theorem cellGet_put_same {α : Type} [DecidableEq α] (dflt : α) (k : Nat) (x : α) (c : Cells α) :
    cellGet dflt k (cellPut dflt k x c) = x := by simp [cellGet_put]

theorem cellGet_put_other {α : Type} [DecidableEq α] (dflt : α) {k j : Nat} (h : j ≠ k) (x : α) (c : Cells α) :
    cellGet dflt j (cellPut dflt k x c) = cellGet dflt j c := by simp [cellGet_put, h]

/-! ## The canonical form -/

/-- The rising keys of a list above a bound, as a proposition that induction can use. -/
theorem cellsAbove_le {α : Type} {lo hi : Nat} (h : lo ≤ hi) (c : Cells α) (hc : cellsAbove hi c = true) :
    cellsAbove lo c = true := by
  cases c with
  | nil => rfl
  | cons e r => simp only [cellsAbove, Bool.and_eq_true, decide_eq_true_eq] at hc ⊢; exact ⟨by omega, hc.2⟩

theorem cellsAbove_ins {α : Type} (lo k : Nat) (x : α) (c : Cells α) (hk : lo < k) (hc : cellsAbove lo c = true) :
    cellsAbove lo (cellIns k x c) = true := by
  induction c generalizing lo with
  | nil => simp [cellIns, cellsAbove, hk]
  | cons e r ih =>
    obtain ⟨i, y⟩ := e
    simp only [cellsAbove, Bool.and_eq_true, decide_eq_true_eq] at hc
    unfold cellIns; split
    · simp [cellsAbove, hk, hc.2]; assumption
    · split
      · rename_i _ h; subst h; simp [cellsAbove, hk, hc.2]
      · simp only [cellsAbove, Bool.and_eq_true, decide_eq_true_eq]; exact ⟨hc.1, ih i (by omega) hc.2⟩

theorem cellsAbove_filter {α : Type} (lo : Nat) (p : Nat × α → Bool) (c : Cells α) (hc : cellsAbove lo c = true) :
    cellsAbove lo (c.filter p) = true := by
  induction c generalizing lo with
  | nil => rfl
  | cons e r ih =>
    obtain ⟨i, y⟩ := e
    simp only [cellsAbove, Bool.and_eq_true, decide_eq_true_eq] at hc
    rw [List.filter_cons]; split
    · simp only [cellsAbove, Bool.and_eq_true, decide_eq_true_eq]; exact ⟨hc.1, ih i hc.2⟩
    · exact ih lo (cellsAbove_le (by omega) r hc.2)

/-- The rising part of the canonical form, with no bound below. -/
def cellsRise {α : Type} (c : Cells α) : Bool :=
  match c with
  | [] => true
  | (j, _) :: r => cellsAbove j r

theorem cellsWf_iff {α : Type} [DecidableEq α] (dflt : α) (c : Cells α) :
    cellsWf dflt c = true ↔ cellsRise c = true ∧ ∀ e ∈ c, e.2 ≠ dflt := by
  cases c <;> simp [cellsWf, cellsRise]

theorem mem_cellIns {α : Type} {k : Nat} {x : α} {c : Cells α} {e : Nat × α} (h : e ∈ cellIns k x c) :
    e = (k, x) ∨ e ∈ c := by
  induction c with
  | nil => simpa [cellIns] using h
  | cons a r ih =>
    obtain ⟨i, y⟩ := a
    unfold cellIns at h; split at h
    · simpa using h
    · split at h
      · rcases List.mem_cons.1 h with h | h
        · exact .inl h
        · exact .inr (List.mem_cons_of_mem _ h)
      · rcases List.mem_cons.1 h with h | h
        · exact .inr (by simp [h])
        · exact (ih h).imp id (List.mem_cons_of_mem _)

theorem cellsRise_ins {α : Type} (k : Nat) (x : α) (c : Cells α) (hc : cellsRise c = true) :
    cellsRise (cellIns k x c) = true := by
  cases c with
  | nil => rfl
  | cons e r =>
    obtain ⟨i, y⟩ := e
    simp only [cellsRise] at hc
    unfold cellIns; split
    · simp [cellsRise, cellsAbove, hc]; assumption
    · split
      · rename_i _ h; subst h; exact hc
      · exact cellsAbove_ins i k x r (by omega) hc

theorem cellsRise_filter {α : Type} (p : Nat × α → Bool) (c : Cells α) (hc : cellsRise c = true) :
    cellsRise (c.filter p) = true := by
  induction c with
  | nil => rfl
  | cons e r ih =>
    obtain ⟨i, y⟩ := e
    simp only [cellsRise] at hc
    rw [List.filter_cons]; split
    · exact cellsAbove_filter i p r hc
    · refine ih ?_
      cases r with
      | nil => rfl
      | cons e r => simp only [cellsAbove, Bool.and_eq_true] at hc; exact hc.2

/-- A write keeps the canonical form. -/
theorem cellPut_wf {α : Type} [DecidableEq α] (dflt : α) (k : Nat) (x : α) (c : Cells α) (h : cellsWf dflt c = true) :
    cellsWf dflt (cellPut dflt k x c) = true := by
  rw [cellsWf_iff] at h ⊢
  unfold cellPut; split
  · exact ⟨cellsRise_filter _ _ h.1, fun e he => h.2 e (List.mem_filter.1 he).1⟩
  · refine ⟨cellsRise_ins k x c h.1, fun e he => ?_⟩
    rcases mem_cellIns he with rfl | he
    · assumption
    · exact h.2 e he

theorem memWrite_wf (m : Cells Byte) (a : Nat) (bs : List Byte) (h : memWf m = true) : memWf (memWrite m a bs) = true := by
  induction bs generalizing m a with
  | nil => exact h
  | cons b r ih => exact ih _ _ (cellPut_wf 0 a b m h)

theorem cellGet_above {α : Type} (dflt : α) (c : Cells α) (j k : Nat) (hc : cellsAbove j c = true) (hk : k ≤ j) :
    cellGet dflt k c = dflt := by
  induction c generalizing j with
  | nil => rfl
  | cons e r ih =>
    obtain ⟨i, y⟩ := e
    simp only [cellsAbove, Bool.and_eq_true, decide_eq_true_eq] at hc
    simp only [cellGet]; rw [if_neg (by omega)]; exact ih i hc.2 (by omega)

/-- Two maps in canonical form that read alike are the same list. -/
theorem cells_ext {α : Type} [DecidableEq α] (dflt : α) {c c' : Cells α} (h : cellsWf dflt c = true)
    (h' : cellsWf dflt c' = true) (he : ∀ k, cellGet dflt k c = cellGet dflt k c') : c = c' := by
  rw [cellsWf_iff] at h h'
  have tail : ∀ {i : Nat} {y : α} {r : Cells α}, cellsAbove i r = true → cellsRise r = true := by
    intro i y r hr
    cases r with
    | nil => rfl
    | cons e r => simp only [cellsAbove, Bool.and_eq_true] at hr; exact hr.2
  induction c generalizing c' with
  | nil =>
    cases c' with
    | nil => rfl
    | cons e r =>
      obtain ⟨i, y⟩ := e
      have := he i; simp only [cellGet, if_pos] at this
      exact absurd this.symm (h'.2 (i, y) (by simp))
  | cons e r ih =>
    obtain ⟨i, y⟩ := e
    cases c' with
    | nil =>
      have := he i; simp only [cellGet, if_pos] at this
      exact absurd this (h.2 (i, y) (by simp))
    | cons e' r' =>
      obtain ⟨i', y'⟩ := e'
      have hr : cellsAbove i r = true := h.1
      have hr' : cellsAbove i' r' = true := h'.1
      have hii : i = i' := by
        rcases Nat.lt_trichotomy i i' with hlt | heq | hgt
        · have := he i; simp only [cellGet, if_pos] at this
          rw [if_neg (by omega), cellGet_above dflt r' i' i hr' (by omega)] at this
          exact absurd this (h.2 (i, y) (by simp))
        · exact heq
        · have := he i'; simp only [cellGet, if_pos] at this
          rw [if_neg (by omega), cellGet_above dflt r i i' hr (by omega)] at this
          exact absurd this.symm (h'.2 (i', y') (by simp))
      subst hii
      have hy : y = y' := by have := he i; simpa [cellGet] using this
      subst hy
      congr 1
      refine ih ⟨tail (y := y) hr, fun e he => h.2 e (List.mem_cons_of_mem _ he)⟩
        ⟨tail (y := y) hr', fun e he => h'.2 e (List.mem_cons_of_mem _ he)⟩ fun k => ?_
      have := he k; simp only [cellGet] at this
      by_cases hk : i = k
      · subst hk; rw [cellGet_above dflt r i i hr (by omega), cellGet_above dflt r' i i hr' (by omega)]
      · simpa [hk] using this

/-! ## Lists by position -/

@[simp] theorem upd_length {α : Type} (l : List α) (k : Nat) (f : α → α) : (upd l k f).length = l.length := by
  induction l generalizing k with
  | nil => cases k <;> rfl
  | cons x r ih => cases k <;> simp [upd, ih]

theorem nth_upd {α : Type} (dflt : α) (l : List α) (k j : Nat) (f : α → α) :
    nth dflt (upd l k f) j = if j = k ∧ k < l.length then f (nth dflt l j) else nth dflt l j := by
  induction l generalizing k j with
  | nil => cases k <;> simp [upd]
  | cons x r ih =>
    cases k with
    | zero => cases j <;> simp [upd, nth]
    | succ k =>
      cases j with
      | zero => simp [upd, nth]
      | succ j => have := ih k j; simp only [nth, List.getD_cons_succ, List.length_cons] at this ⊢; simp only [upd, List.getD_cons_succ, this]
                  by_cases h : j = k <;> simp [h]

theorem nth_upd_other {α : Type} (dflt : α) (l : List α) {k j : Nat} (h : j ≠ k) (f : α → α) :
    nth dflt (upd l k f) j = nth dflt l j := by rw [nth_upd, if_neg (by simp [h])]

theorem nth_upd_same {α : Type} (dflt : α) (l : List α) {k : Nat} (h : k < l.length) (f : α → α) :
    nth dflt (upd l k f) k = f (nth dflt l k) := by rw [nth_upd, if_pos ⟨rfl, h⟩]

theorem upd_id {α : Type} (l : List α) (k : Nat) : upd l k id = l := by
  induction l generalizing k with
  | nil => cases k <;> rfl
  | cons x r ih => cases k <;> simp [upd, ih]

end Sys2Proof.Machine
end

