-- ==== Sys2Proof/Laws/State.lean ====
section
/-!
SUPPORT. What each update of a part of State leaves: one lemma per field, so that no proof unfolds an update.
-/

namespace Sys2Proof.Machine

@[simp] theorem modGroup_agenda (s : State) (g : Nat) (f : Group → Group) : (modGroup s g f).agenda = s.agenda := rfl
@[simp] theorem modGroup_tick (s : State) (g : Nat) (f : Group → Group) : (modGroup s g f).tick = s.tick := rfl
@[simp] theorem modGroup_cur (s : State) (g : Nat) (f : Group → Group) : (modGroup s g f).cur = s.cur := rfl
@[simp] theorem modGroup_nextId (s : State) (g : Nat) (f : Group → Group) : (modGroup s g f).nextId = s.nextId := rfl
@[simp] theorem modGroup_now (s : State) (g : Nat) (f : Group → Group) : (modGroup s g f).now = s.now := rfl
@[simp] theorem modGroup_interval (s : State) (g : Nat) (f : Group → Group) : (modGroup s g f).interval = s.interval := rfl
@[simp] theorem modGroup_ringStep (s : State) (g : Nat) (f : Group → Group) : (modGroup s g f).ringStep = s.ringStep := rfl
@[simp] theorem modGroup_hbm (s : State) (g : Nat) (f : Group → Group) : (modGroup s g f).hbm = s.hbm := rfl
@[simp] theorem modGroup_cap (s : State) (g : Nat) (f : Group → Group) : (modGroup s g f).cap = s.cap := rfl
@[simp] theorem modGroup_host (s : State) (g : Nat) (f : Group → Group) : (modGroup s g f).host = s.host := rfl
@[simp] theorem modGroup_peer (s : State) (g : Nat) (f : Group → Group) : (modGroup s g f).peer = s.peer := rfl
@[simp] theorem modGroup_replica (s : State) (g : Nat) (f : Group → Group) : (modGroup s g f).replica = s.replica := rfl
@[simp] theorem modGroup_poison (s : State) (g : Nat) (f : Group → Group) : (modGroup s g f).poison = s.poison := rfl
@[simp] theorem modGroup_poisonCap (s : State) (g : Nat) (f : Group → Group) : (modGroup s g f).poisonCap = s.poisonCap := rfl
@[simp] theorem modGroup_tlb (s : State) (g : Nat) (f : Group → Group) : (modGroup s g f).tlb = s.tlb := rfl
@[simp] theorem modGroup_ctlb (s : State) (g : Nat) (f : Group → Group) : (modGroup s g f).ctlb = s.ctlb := rfl
@[simp] theorem modGroup_flight (s : State) (g : Nat) (f : Group → Group) : (modGroup s g f).flight = s.flight := rfl
@[simp] theorem modGroup_wgs (s : State) (g : Nat) (f : Group → Group) : (modGroup s g f).wgs = s.wgs := rfl
@[simp] theorem modGroup_gangs (s : State) (g : Nat) (f : Group → Group) : (modGroup s g f).gangs = s.gangs := rfl
@[simp] theorem modGroup_grids (s : State) (g : Nat) (f : Group → Group) : (modGroup s g f).grids = s.grids := rfl
@[simp] theorem modGroup_parts (s : State) (g : Nat) (f : Group → Group) : (modGroup s g f).parts = s.parts := rfl
@[simp] theorem modGroup_cores (s : State) (g : Nat) (f : Group → Group) : (modGroup s g f).cores = s.cores := rfl
@[simp] theorem modGroup_clusters (s : State) (g : Nat) (f : Group → Group) : (modGroup s g f).clusters = s.clusters := rfl
@[simp] theorem modGroup_rails (s : State) (g : Nat) (f : Group → Group) : (modGroup s g f).rails = s.rails := rfl
@[simp] theorem modGroup_hbmStacks (s : State) (g : Nat) (f : Group → Group) : (modGroup s g f).hbmStacks = s.hbmStacks := rfl
@[simp] theorem modGroup_owners (s : State) (g : Nat) (f : Group → Group) : (modGroup s g f).owners = s.owners := rfl
@[simp] theorem modGroup_dieHot (s : State) (g : Nat) (f : Group → Group) : (modGroup s g f).dieHot = s.dieHot := rfl
@[simp] theorem modGroup_off (s : State) (g : Nat) (f : Group → Group) : (modGroup s g f).off = s.off := rfl
@[simp] theorem modGroup_links (s : State) (g : Nat) (f : Group → Group) : (modGroup s g f).links = s.links := rfl
@[simp] theorem modGroup_fibres (s : State) (g : Nat) (f : Group → Group) : (modGroup s g f).fibres = s.fibres := rfl
@[simp] theorem modGroup_obs (s : State) (g : Nat) (f : Group → Group) : (modGroup s g f).obs = s.obs := rfl
@[simp] theorem modGroup_isReady (s : State) (g : Nat) (f : Group → Group) : (modGroup s g f).isReady = s.isReady := rfl
@[simp] theorem modGroup_scanPos (s : State) (g : Nat) (f : Group → Group) : (modGroup s g f).scanPos = s.scanPos := rfl
@[simp] theorem modGroup_lastRead (s : State) (g : Nat) (f : Group → Group) : (modGroup s g f).lastRead = s.lastRead := rfl

@[simp] theorem modWg_agenda (s : State) (w : Nat) (f : Workgroup → Workgroup) : (modWg s w f).agenda = s.agenda := rfl
@[simp] theorem modWg_tick (s : State) (w : Nat) (f : Workgroup → Workgroup) : (modWg s w f).tick = s.tick := rfl
@[simp] theorem modWg_cur (s : State) (w : Nat) (f : Workgroup → Workgroup) : (modWg s w f).cur = s.cur := rfl
@[simp] theorem modWg_nextId (s : State) (w : Nat) (f : Workgroup → Workgroup) : (modWg s w f).nextId = s.nextId := rfl
@[simp] theorem modWg_now (s : State) (w : Nat) (f : Workgroup → Workgroup) : (modWg s w f).now = s.now := rfl
@[simp] theorem modWg_interval (s : State) (w : Nat) (f : Workgroup → Workgroup) : (modWg s w f).interval = s.interval := rfl
@[simp] theorem modWg_ringStep (s : State) (w : Nat) (f : Workgroup → Workgroup) : (modWg s w f).ringStep = s.ringStep := rfl
@[simp] theorem modWg_hbm (s : State) (w : Nat) (f : Workgroup → Workgroup) : (modWg s w f).hbm = s.hbm := rfl
@[simp] theorem modWg_cap (s : State) (w : Nat) (f : Workgroup → Workgroup) : (modWg s w f).cap = s.cap := rfl
@[simp] theorem modWg_host (s : State) (w : Nat) (f : Workgroup → Workgroup) : (modWg s w f).host = s.host := rfl
@[simp] theorem modWg_peer (s : State) (w : Nat) (f : Workgroup → Workgroup) : (modWg s w f).peer = s.peer := rfl
@[simp] theorem modWg_replica (s : State) (w : Nat) (f : Workgroup → Workgroup) : (modWg s w f).replica = s.replica := rfl
@[simp] theorem modWg_poison (s : State) (w : Nat) (f : Workgroup → Workgroup) : (modWg s w f).poison = s.poison := rfl
@[simp] theorem modWg_poisonCap (s : State) (w : Nat) (f : Workgroup → Workgroup) : (modWg s w f).poisonCap = s.poisonCap := rfl
@[simp] theorem modWg_tlb (s : State) (w : Nat) (f : Workgroup → Workgroup) : (modWg s w f).tlb = s.tlb := rfl
@[simp] theorem modWg_ctlb (s : State) (w : Nat) (f : Workgroup → Workgroup) : (modWg s w f).ctlb = s.ctlb := rfl
@[simp] theorem modWg_flight (s : State) (w : Nat) (f : Workgroup → Workgroup) : (modWg s w f).flight = s.flight := rfl
@[simp] theorem modWg_groups (s : State) (w : Nat) (f : Workgroup → Workgroup) : (modWg s w f).groups = s.groups := rfl
@[simp] theorem modWg_gangs (s : State) (w : Nat) (f : Workgroup → Workgroup) : (modWg s w f).gangs = s.gangs := rfl
@[simp] theorem modWg_grids (s : State) (w : Nat) (f : Workgroup → Workgroup) : (modWg s w f).grids = s.grids := rfl
@[simp] theorem modWg_parts (s : State) (w : Nat) (f : Workgroup → Workgroup) : (modWg s w f).parts = s.parts := rfl
@[simp] theorem modWg_cores (s : State) (w : Nat) (f : Workgroup → Workgroup) : (modWg s w f).cores = s.cores := rfl
@[simp] theorem modWg_clusters (s : State) (w : Nat) (f : Workgroup → Workgroup) : (modWg s w f).clusters = s.clusters := rfl
@[simp] theorem modWg_rails (s : State) (w : Nat) (f : Workgroup → Workgroup) : (modWg s w f).rails = s.rails := rfl
@[simp] theorem modWg_hbmStacks (s : State) (w : Nat) (f : Workgroup → Workgroup) : (modWg s w f).hbmStacks = s.hbmStacks := rfl
@[simp] theorem modWg_owners (s : State) (w : Nat) (f : Workgroup → Workgroup) : (modWg s w f).owners = s.owners := rfl
@[simp] theorem modWg_dieHot (s : State) (w : Nat) (f : Workgroup → Workgroup) : (modWg s w f).dieHot = s.dieHot := rfl
@[simp] theorem modWg_off (s : State) (w : Nat) (f : Workgroup → Workgroup) : (modWg s w f).off = s.off := rfl
@[simp] theorem modWg_links (s : State) (w : Nat) (f : Workgroup → Workgroup) : (modWg s w f).links = s.links := rfl
@[simp] theorem modWg_fibres (s : State) (w : Nat) (f : Workgroup → Workgroup) : (modWg s w f).fibres = s.fibres := rfl
@[simp] theorem modWg_obs (s : State) (w : Nat) (f : Workgroup → Workgroup) : (modWg s w f).obs = s.obs := rfl
@[simp] theorem modWg_isReady (s : State) (w : Nat) (f : Workgroup → Workgroup) : (modWg s w f).isReady = s.isReady := rfl
@[simp] theorem modWg_scanPos (s : State) (w : Nat) (f : Workgroup → Workgroup) : (modWg s w f).scanPos = s.scanPos := rfl
@[simp] theorem modWg_lastRead (s : State) (w : Nat) (f : Workgroup → Workgroup) : (modWg s w f).lastRead = s.lastRead := rfl

@[simp] theorem modGang_agenda (s : State) (k : Nat) (f : Gang → Gang) : (modGang s k f).agenda = s.agenda := rfl
@[simp] theorem modGang_tick (s : State) (k : Nat) (f : Gang → Gang) : (modGang s k f).tick = s.tick := rfl
@[simp] theorem modGang_cur (s : State) (k : Nat) (f : Gang → Gang) : (modGang s k f).cur = s.cur := rfl
@[simp] theorem modGang_nextId (s : State) (k : Nat) (f : Gang → Gang) : (modGang s k f).nextId = s.nextId := rfl
@[simp] theorem modGang_now (s : State) (k : Nat) (f : Gang → Gang) : (modGang s k f).now = s.now := rfl
@[simp] theorem modGang_interval (s : State) (k : Nat) (f : Gang → Gang) : (modGang s k f).interval = s.interval := rfl
@[simp] theorem modGang_ringStep (s : State) (k : Nat) (f : Gang → Gang) : (modGang s k f).ringStep = s.ringStep := rfl
@[simp] theorem modGang_hbm (s : State) (k : Nat) (f : Gang → Gang) : (modGang s k f).hbm = s.hbm := rfl
@[simp] theorem modGang_cap (s : State) (k : Nat) (f : Gang → Gang) : (modGang s k f).cap = s.cap := rfl
@[simp] theorem modGang_host (s : State) (k : Nat) (f : Gang → Gang) : (modGang s k f).host = s.host := rfl
@[simp] theorem modGang_peer (s : State) (k : Nat) (f : Gang → Gang) : (modGang s k f).peer = s.peer := rfl
@[simp] theorem modGang_replica (s : State) (k : Nat) (f : Gang → Gang) : (modGang s k f).replica = s.replica := rfl
@[simp] theorem modGang_poison (s : State) (k : Nat) (f : Gang → Gang) : (modGang s k f).poison = s.poison := rfl
@[simp] theorem modGang_poisonCap (s : State) (k : Nat) (f : Gang → Gang) : (modGang s k f).poisonCap = s.poisonCap := rfl
@[simp] theorem modGang_tlb (s : State) (k : Nat) (f : Gang → Gang) : (modGang s k f).tlb = s.tlb := rfl
@[simp] theorem modGang_ctlb (s : State) (k : Nat) (f : Gang → Gang) : (modGang s k f).ctlb = s.ctlb := rfl
@[simp] theorem modGang_flight (s : State) (k : Nat) (f : Gang → Gang) : (modGang s k f).flight = s.flight := rfl
@[simp] theorem modGang_groups (s : State) (k : Nat) (f : Gang → Gang) : (modGang s k f).groups = s.groups := rfl
@[simp] theorem modGang_wgs (s : State) (k : Nat) (f : Gang → Gang) : (modGang s k f).wgs = s.wgs := rfl
@[simp] theorem modGang_grids (s : State) (k : Nat) (f : Gang → Gang) : (modGang s k f).grids = s.grids := rfl
@[simp] theorem modGang_parts (s : State) (k : Nat) (f : Gang → Gang) : (modGang s k f).parts = s.parts := rfl
@[simp] theorem modGang_cores (s : State) (k : Nat) (f : Gang → Gang) : (modGang s k f).cores = s.cores := rfl
@[simp] theorem modGang_clusters (s : State) (k : Nat) (f : Gang → Gang) : (modGang s k f).clusters = s.clusters := rfl
@[simp] theorem modGang_rails (s : State) (k : Nat) (f : Gang → Gang) : (modGang s k f).rails = s.rails := rfl
@[simp] theorem modGang_hbmStacks (s : State) (k : Nat) (f : Gang → Gang) : (modGang s k f).hbmStacks = s.hbmStacks := rfl
@[simp] theorem modGang_owners (s : State) (k : Nat) (f : Gang → Gang) : (modGang s k f).owners = s.owners := rfl
@[simp] theorem modGang_dieHot (s : State) (k : Nat) (f : Gang → Gang) : (modGang s k f).dieHot = s.dieHot := rfl
@[simp] theorem modGang_off (s : State) (k : Nat) (f : Gang → Gang) : (modGang s k f).off = s.off := rfl
@[simp] theorem modGang_links (s : State) (k : Nat) (f : Gang → Gang) : (modGang s k f).links = s.links := rfl
@[simp] theorem modGang_fibres (s : State) (k : Nat) (f : Gang → Gang) : (modGang s k f).fibres = s.fibres := rfl
@[simp] theorem modGang_obs (s : State) (k : Nat) (f : Gang → Gang) : (modGang s k f).obs = s.obs := rfl
@[simp] theorem modGang_isReady (s : State) (k : Nat) (f : Gang → Gang) : (modGang s k f).isReady = s.isReady := rfl
@[simp] theorem modGang_scanPos (s : State) (k : Nat) (f : Gang → Gang) : (modGang s k f).scanPos = s.scanPos := rfl
@[simp] theorem modGang_lastRead (s : State) (k : Nat) (f : Gang → Gang) : (modGang s k f).lastRead = s.lastRead := rfl

@[simp] theorem modGrid_agenda (s : State) (k : Nat) (f : Grid → Grid) : (modGrid s k f).agenda = s.agenda := rfl
@[simp] theorem modGrid_tick (s : State) (k : Nat) (f : Grid → Grid) : (modGrid s k f).tick = s.tick := rfl
@[simp] theorem modGrid_cur (s : State) (k : Nat) (f : Grid → Grid) : (modGrid s k f).cur = s.cur := rfl
@[simp] theorem modGrid_nextId (s : State) (k : Nat) (f : Grid → Grid) : (modGrid s k f).nextId = s.nextId := rfl
@[simp] theorem modGrid_now (s : State) (k : Nat) (f : Grid → Grid) : (modGrid s k f).now = s.now := rfl
@[simp] theorem modGrid_interval (s : State) (k : Nat) (f : Grid → Grid) : (modGrid s k f).interval = s.interval := rfl
@[simp] theorem modGrid_ringStep (s : State) (k : Nat) (f : Grid → Grid) : (modGrid s k f).ringStep = s.ringStep := rfl
@[simp] theorem modGrid_hbm (s : State) (k : Nat) (f : Grid → Grid) : (modGrid s k f).hbm = s.hbm := rfl
@[simp] theorem modGrid_cap (s : State) (k : Nat) (f : Grid → Grid) : (modGrid s k f).cap = s.cap := rfl
@[simp] theorem modGrid_host (s : State) (k : Nat) (f : Grid → Grid) : (modGrid s k f).host = s.host := rfl
@[simp] theorem modGrid_peer (s : State) (k : Nat) (f : Grid → Grid) : (modGrid s k f).peer = s.peer := rfl
@[simp] theorem modGrid_replica (s : State) (k : Nat) (f : Grid → Grid) : (modGrid s k f).replica = s.replica := rfl
@[simp] theorem modGrid_poison (s : State) (k : Nat) (f : Grid → Grid) : (modGrid s k f).poison = s.poison := rfl
@[simp] theorem modGrid_poisonCap (s : State) (k : Nat) (f : Grid → Grid) : (modGrid s k f).poisonCap = s.poisonCap := rfl
@[simp] theorem modGrid_tlb (s : State) (k : Nat) (f : Grid → Grid) : (modGrid s k f).tlb = s.tlb := rfl
@[simp] theorem modGrid_ctlb (s : State) (k : Nat) (f : Grid → Grid) : (modGrid s k f).ctlb = s.ctlb := rfl
@[simp] theorem modGrid_flight (s : State) (k : Nat) (f : Grid → Grid) : (modGrid s k f).flight = s.flight := rfl
@[simp] theorem modGrid_groups (s : State) (k : Nat) (f : Grid → Grid) : (modGrid s k f).groups = s.groups := rfl
@[simp] theorem modGrid_wgs (s : State) (k : Nat) (f : Grid → Grid) : (modGrid s k f).wgs = s.wgs := rfl
@[simp] theorem modGrid_gangs (s : State) (k : Nat) (f : Grid → Grid) : (modGrid s k f).gangs = s.gangs := rfl
@[simp] theorem modGrid_parts (s : State) (k : Nat) (f : Grid → Grid) : (modGrid s k f).parts = s.parts := rfl
@[simp] theorem modGrid_cores (s : State) (k : Nat) (f : Grid → Grid) : (modGrid s k f).cores = s.cores := rfl
@[simp] theorem modGrid_clusters (s : State) (k : Nat) (f : Grid → Grid) : (modGrid s k f).clusters = s.clusters := rfl
@[simp] theorem modGrid_rails (s : State) (k : Nat) (f : Grid → Grid) : (modGrid s k f).rails = s.rails := rfl
@[simp] theorem modGrid_hbmStacks (s : State) (k : Nat) (f : Grid → Grid) : (modGrid s k f).hbmStacks = s.hbmStacks := rfl
@[simp] theorem modGrid_owners (s : State) (k : Nat) (f : Grid → Grid) : (modGrid s k f).owners = s.owners := rfl
@[simp] theorem modGrid_dieHot (s : State) (k : Nat) (f : Grid → Grid) : (modGrid s k f).dieHot = s.dieHot := rfl
@[simp] theorem modGrid_off (s : State) (k : Nat) (f : Grid → Grid) : (modGrid s k f).off = s.off := rfl
@[simp] theorem modGrid_links (s : State) (k : Nat) (f : Grid → Grid) : (modGrid s k f).links = s.links := rfl
@[simp] theorem modGrid_fibres (s : State) (k : Nat) (f : Grid → Grid) : (modGrid s k f).fibres = s.fibres := rfl
@[simp] theorem modGrid_obs (s : State) (k : Nat) (f : Grid → Grid) : (modGrid s k f).obs = s.obs := rfl
@[simp] theorem modGrid_isReady (s : State) (k : Nat) (f : Grid → Grid) : (modGrid s k f).isReady = s.isReady := rfl
@[simp] theorem modGrid_scanPos (s : State) (k : Nat) (f : Grid → Grid) : (modGrid s k f).scanPos = s.scanPos := rfl
@[simp] theorem modGrid_lastRead (s : State) (k : Nat) (f : Grid → Grid) : (modGrid s k f).lastRead = s.lastRead := rfl

@[simp] theorem modPart_agenda (s : State) (p : Nat) (f : Partition → Partition) : (modPart s p f).agenda = s.agenda := rfl
@[simp] theorem modPart_tick (s : State) (p : Nat) (f : Partition → Partition) : (modPart s p f).tick = s.tick := rfl
@[simp] theorem modPart_cur (s : State) (p : Nat) (f : Partition → Partition) : (modPart s p f).cur = s.cur := rfl
@[simp] theorem modPart_nextId (s : State) (p : Nat) (f : Partition → Partition) : (modPart s p f).nextId = s.nextId := rfl
@[simp] theorem modPart_now (s : State) (p : Nat) (f : Partition → Partition) : (modPart s p f).now = s.now := rfl
@[simp] theorem modPart_interval (s : State) (p : Nat) (f : Partition → Partition) : (modPart s p f).interval = s.interval := rfl
@[simp] theorem modPart_ringStep (s : State) (p : Nat) (f : Partition → Partition) : (modPart s p f).ringStep = s.ringStep := rfl
@[simp] theorem modPart_hbm (s : State) (p : Nat) (f : Partition → Partition) : (modPart s p f).hbm = s.hbm := rfl
@[simp] theorem modPart_cap (s : State) (p : Nat) (f : Partition → Partition) : (modPart s p f).cap = s.cap := rfl
@[simp] theorem modPart_host (s : State) (p : Nat) (f : Partition → Partition) : (modPart s p f).host = s.host := rfl
@[simp] theorem modPart_peer (s : State) (p : Nat) (f : Partition → Partition) : (modPart s p f).peer = s.peer := rfl
@[simp] theorem modPart_replica (s : State) (p : Nat) (f : Partition → Partition) : (modPart s p f).replica = s.replica := rfl
@[simp] theorem modPart_poison (s : State) (p : Nat) (f : Partition → Partition) : (modPart s p f).poison = s.poison := rfl
@[simp] theorem modPart_poisonCap (s : State) (p : Nat) (f : Partition → Partition) : (modPart s p f).poisonCap = s.poisonCap := rfl
@[simp] theorem modPart_tlb (s : State) (p : Nat) (f : Partition → Partition) : (modPart s p f).tlb = s.tlb := rfl
@[simp] theorem modPart_ctlb (s : State) (p : Nat) (f : Partition → Partition) : (modPart s p f).ctlb = s.ctlb := rfl
@[simp] theorem modPart_flight (s : State) (p : Nat) (f : Partition → Partition) : (modPart s p f).flight = s.flight := rfl
@[simp] theorem modPart_groups (s : State) (p : Nat) (f : Partition → Partition) : (modPart s p f).groups = s.groups := rfl
@[simp] theorem modPart_wgs (s : State) (p : Nat) (f : Partition → Partition) : (modPart s p f).wgs = s.wgs := rfl
@[simp] theorem modPart_gangs (s : State) (p : Nat) (f : Partition → Partition) : (modPart s p f).gangs = s.gangs := rfl
@[simp] theorem modPart_grids (s : State) (p : Nat) (f : Partition → Partition) : (modPart s p f).grids = s.grids := rfl
@[simp] theorem modPart_cores (s : State) (p : Nat) (f : Partition → Partition) : (modPart s p f).cores = s.cores := rfl
@[simp] theorem modPart_clusters (s : State) (p : Nat) (f : Partition → Partition) : (modPart s p f).clusters = s.clusters := rfl
@[simp] theorem modPart_rails (s : State) (p : Nat) (f : Partition → Partition) : (modPart s p f).rails = s.rails := rfl
@[simp] theorem modPart_hbmStacks (s : State) (p : Nat) (f : Partition → Partition) : (modPart s p f).hbmStacks = s.hbmStacks := rfl
@[simp] theorem modPart_owners (s : State) (p : Nat) (f : Partition → Partition) : (modPart s p f).owners = s.owners := rfl
@[simp] theorem modPart_dieHot (s : State) (p : Nat) (f : Partition → Partition) : (modPart s p f).dieHot = s.dieHot := rfl
@[simp] theorem modPart_off (s : State) (p : Nat) (f : Partition → Partition) : (modPart s p f).off = s.off := rfl
@[simp] theorem modPart_links (s : State) (p : Nat) (f : Partition → Partition) : (modPart s p f).links = s.links := rfl
@[simp] theorem modPart_fibres (s : State) (p : Nat) (f : Partition → Partition) : (modPart s p f).fibres = s.fibres := rfl
@[simp] theorem modPart_obs (s : State) (p : Nat) (f : Partition → Partition) : (modPart s p f).obs = s.obs := rfl
@[simp] theorem modPart_isReady (s : State) (p : Nat) (f : Partition → Partition) : (modPart s p f).isReady = s.isReady := rfl
@[simp] theorem modPart_scanPos (s : State) (p : Nat) (f : Partition → Partition) : (modPart s p f).scanPos = s.scanPos := rfl
@[simp] theorem modPart_lastRead (s : State) (p : Nat) (f : Partition → Partition) : (modPart s p f).lastRead = s.lastRead := rfl

@[simp] theorem modCluster_agenda (s : State) (c : Nat) (f : Cluster → Cluster) : (modCluster s c f).agenda = s.agenda := rfl
@[simp] theorem modCluster_tick (s : State) (c : Nat) (f : Cluster → Cluster) : (modCluster s c f).tick = s.tick := rfl
@[simp] theorem modCluster_cur (s : State) (c : Nat) (f : Cluster → Cluster) : (modCluster s c f).cur = s.cur := rfl
@[simp] theorem modCluster_nextId (s : State) (c : Nat) (f : Cluster → Cluster) : (modCluster s c f).nextId = s.nextId := rfl
@[simp] theorem modCluster_now (s : State) (c : Nat) (f : Cluster → Cluster) : (modCluster s c f).now = s.now := rfl
@[simp] theorem modCluster_interval (s : State) (c : Nat) (f : Cluster → Cluster) : (modCluster s c f).interval = s.interval := rfl
@[simp] theorem modCluster_ringStep (s : State) (c : Nat) (f : Cluster → Cluster) : (modCluster s c f).ringStep = s.ringStep := rfl
@[simp] theorem modCluster_hbm (s : State) (c : Nat) (f : Cluster → Cluster) : (modCluster s c f).hbm = s.hbm := rfl
@[simp] theorem modCluster_cap (s : State) (c : Nat) (f : Cluster → Cluster) : (modCluster s c f).cap = s.cap := rfl
@[simp] theorem modCluster_host (s : State) (c : Nat) (f : Cluster → Cluster) : (modCluster s c f).host = s.host := rfl
@[simp] theorem modCluster_peer (s : State) (c : Nat) (f : Cluster → Cluster) : (modCluster s c f).peer = s.peer := rfl
@[simp] theorem modCluster_replica (s : State) (c : Nat) (f : Cluster → Cluster) : (modCluster s c f).replica = s.replica := rfl
@[simp] theorem modCluster_poison (s : State) (c : Nat) (f : Cluster → Cluster) : (modCluster s c f).poison = s.poison := rfl
@[simp] theorem modCluster_poisonCap (s : State) (c : Nat) (f : Cluster → Cluster) : (modCluster s c f).poisonCap = s.poisonCap := rfl
@[simp] theorem modCluster_tlb (s : State) (c : Nat) (f : Cluster → Cluster) : (modCluster s c f).tlb = s.tlb := rfl
@[simp] theorem modCluster_ctlb (s : State) (c : Nat) (f : Cluster → Cluster) : (modCluster s c f).ctlb = s.ctlb := rfl
@[simp] theorem modCluster_flight (s : State) (c : Nat) (f : Cluster → Cluster) : (modCluster s c f).flight = s.flight := rfl
@[simp] theorem modCluster_groups (s : State) (c : Nat) (f : Cluster → Cluster) : (modCluster s c f).groups = s.groups := rfl
@[simp] theorem modCluster_wgs (s : State) (c : Nat) (f : Cluster → Cluster) : (modCluster s c f).wgs = s.wgs := rfl
@[simp] theorem modCluster_gangs (s : State) (c : Nat) (f : Cluster → Cluster) : (modCluster s c f).gangs = s.gangs := rfl
@[simp] theorem modCluster_grids (s : State) (c : Nat) (f : Cluster → Cluster) : (modCluster s c f).grids = s.grids := rfl
@[simp] theorem modCluster_parts (s : State) (c : Nat) (f : Cluster → Cluster) : (modCluster s c f).parts = s.parts := rfl
@[simp] theorem modCluster_cores (s : State) (c : Nat) (f : Cluster → Cluster) : (modCluster s c f).cores = s.cores := rfl
@[simp] theorem modCluster_rails (s : State) (c : Nat) (f : Cluster → Cluster) : (modCluster s c f).rails = s.rails := rfl
@[simp] theorem modCluster_hbmStacks (s : State) (c : Nat) (f : Cluster → Cluster) : (modCluster s c f).hbmStacks = s.hbmStacks := rfl
@[simp] theorem modCluster_owners (s : State) (c : Nat) (f : Cluster → Cluster) : (modCluster s c f).owners = s.owners := rfl
@[simp] theorem modCluster_dieHot (s : State) (c : Nat) (f : Cluster → Cluster) : (modCluster s c f).dieHot = s.dieHot := rfl
@[simp] theorem modCluster_off (s : State) (c : Nat) (f : Cluster → Cluster) : (modCluster s c f).off = s.off := rfl
@[simp] theorem modCluster_links (s : State) (c : Nat) (f : Cluster → Cluster) : (modCluster s c f).links = s.links := rfl
@[simp] theorem modCluster_fibres (s : State) (c : Nat) (f : Cluster → Cluster) : (modCluster s c f).fibres = s.fibres := rfl
@[simp] theorem modCluster_obs (s : State) (c : Nat) (f : Cluster → Cluster) : (modCluster s c f).obs = s.obs := rfl
@[simp] theorem modCluster_isReady (s : State) (c : Nat) (f : Cluster → Cluster) : (modCluster s c f).isReady = s.isReady := rfl
@[simp] theorem modCluster_scanPos (s : State) (c : Nat) (f : Cluster → Cluster) : (modCluster s c f).scanPos = s.scanPos := rfl
@[simp] theorem modCluster_lastRead (s : State) (c : Nat) (f : Cluster → Cluster) : (modCluster s c f).lastRead = s.lastRead := rfl

@[simp] theorem modCore_agenda (s : State) (p c : Nat) (f : Core → Core) : (modCore s p c f).agenda = s.agenda := rfl
@[simp] theorem modCore_tick (s : State) (p c : Nat) (f : Core → Core) : (modCore s p c f).tick = s.tick := rfl
@[simp] theorem modCore_cur (s : State) (p c : Nat) (f : Core → Core) : (modCore s p c f).cur = s.cur := rfl
@[simp] theorem modCore_nextId (s : State) (p c : Nat) (f : Core → Core) : (modCore s p c f).nextId = s.nextId := rfl
@[simp] theorem modCore_now (s : State) (p c : Nat) (f : Core → Core) : (modCore s p c f).now = s.now := rfl
@[simp] theorem modCore_interval (s : State) (p c : Nat) (f : Core → Core) : (modCore s p c f).interval = s.interval := rfl
@[simp] theorem modCore_ringStep (s : State) (p c : Nat) (f : Core → Core) : (modCore s p c f).ringStep = s.ringStep := rfl
@[simp] theorem modCore_hbm (s : State) (p c : Nat) (f : Core → Core) : (modCore s p c f).hbm = s.hbm := rfl
@[simp] theorem modCore_cap (s : State) (p c : Nat) (f : Core → Core) : (modCore s p c f).cap = s.cap := rfl
@[simp] theorem modCore_host (s : State) (p c : Nat) (f : Core → Core) : (modCore s p c f).host = s.host := rfl
@[simp] theorem modCore_peer (s : State) (p c : Nat) (f : Core → Core) : (modCore s p c f).peer = s.peer := rfl
@[simp] theorem modCore_replica (s : State) (p c : Nat) (f : Core → Core) : (modCore s p c f).replica = s.replica := rfl
@[simp] theorem modCore_poison (s : State) (p c : Nat) (f : Core → Core) : (modCore s p c f).poison = s.poison := rfl
@[simp] theorem modCore_poisonCap (s : State) (p c : Nat) (f : Core → Core) : (modCore s p c f).poisonCap = s.poisonCap := rfl
@[simp] theorem modCore_tlb (s : State) (p c : Nat) (f : Core → Core) : (modCore s p c f).tlb = s.tlb := rfl
@[simp] theorem modCore_ctlb (s : State) (p c : Nat) (f : Core → Core) : (modCore s p c f).ctlb = s.ctlb := rfl
@[simp] theorem modCore_flight (s : State) (p c : Nat) (f : Core → Core) : (modCore s p c f).flight = s.flight := rfl
@[simp] theorem modCore_groups (s : State) (p c : Nat) (f : Core → Core) : (modCore s p c f).groups = s.groups := rfl
@[simp] theorem modCore_wgs (s : State) (p c : Nat) (f : Core → Core) : (modCore s p c f).wgs = s.wgs := rfl
@[simp] theorem modCore_gangs (s : State) (p c : Nat) (f : Core → Core) : (modCore s p c f).gangs = s.gangs := rfl
@[simp] theorem modCore_grids (s : State) (p c : Nat) (f : Core → Core) : (modCore s p c f).grids = s.grids := rfl
@[simp] theorem modCore_parts (s : State) (p c : Nat) (f : Core → Core) : (modCore s p c f).parts = s.parts := rfl
@[simp] theorem modCore_clusters (s : State) (p c : Nat) (f : Core → Core) : (modCore s p c f).clusters = s.clusters := rfl
@[simp] theorem modCore_rails (s : State) (p c : Nat) (f : Core → Core) : (modCore s p c f).rails = s.rails := rfl
@[simp] theorem modCore_hbmStacks (s : State) (p c : Nat) (f : Core → Core) : (modCore s p c f).hbmStacks = s.hbmStacks := rfl
@[simp] theorem modCore_owners (s : State) (p c : Nat) (f : Core → Core) : (modCore s p c f).owners = s.owners := rfl
@[simp] theorem modCore_dieHot (s : State) (p c : Nat) (f : Core → Core) : (modCore s p c f).dieHot = s.dieHot := rfl
@[simp] theorem modCore_off (s : State) (p c : Nat) (f : Core → Core) : (modCore s p c f).off = s.off := rfl
@[simp] theorem modCore_links (s : State) (p c : Nat) (f : Core → Core) : (modCore s p c f).links = s.links := rfl
@[simp] theorem modCore_fibres (s : State) (p c : Nat) (f : Core → Core) : (modCore s p c f).fibres = s.fibres := rfl
@[simp] theorem modCore_obs (s : State) (p c : Nat) (f : Core → Core) : (modCore s p c f).obs = s.obs := rfl
@[simp] theorem modCore_isReady (s : State) (p c : Nat) (f : Core → Core) : (modCore s p c f).isReady = s.isReady := rfl
@[simp] theorem modCore_scanPos (s : State) (p c : Nat) (f : Core → Core) : (modCore s p c f).scanPos = s.scanPos := rfl
@[simp] theorem modCore_lastRead (s : State) (p c : Nat) (f : Core → Core) : (modCore s p c f).lastRead = s.lastRead := rfl

@[simp] theorem modObs_agenda (s : State) (f : Observatory → Observatory) : (modObs s f).agenda = s.agenda := rfl
@[simp] theorem modObs_tick (s : State) (f : Observatory → Observatory) : (modObs s f).tick = s.tick := rfl
@[simp] theorem modObs_cur (s : State) (f : Observatory → Observatory) : (modObs s f).cur = s.cur := rfl
@[simp] theorem modObs_nextId (s : State) (f : Observatory → Observatory) : (modObs s f).nextId = s.nextId := rfl
@[simp] theorem modObs_now (s : State) (f : Observatory → Observatory) : (modObs s f).now = s.now := rfl
@[simp] theorem modObs_interval (s : State) (f : Observatory → Observatory) : (modObs s f).interval = s.interval := rfl
@[simp] theorem modObs_ringStep (s : State) (f : Observatory → Observatory) : (modObs s f).ringStep = s.ringStep := rfl
@[simp] theorem modObs_hbm (s : State) (f : Observatory → Observatory) : (modObs s f).hbm = s.hbm := rfl
@[simp] theorem modObs_cap (s : State) (f : Observatory → Observatory) : (modObs s f).cap = s.cap := rfl
@[simp] theorem modObs_host (s : State) (f : Observatory → Observatory) : (modObs s f).host = s.host := rfl
@[simp] theorem modObs_peer (s : State) (f : Observatory → Observatory) : (modObs s f).peer = s.peer := rfl
@[simp] theorem modObs_replica (s : State) (f : Observatory → Observatory) : (modObs s f).replica = s.replica := rfl
@[simp] theorem modObs_poison (s : State) (f : Observatory → Observatory) : (modObs s f).poison = s.poison := rfl
@[simp] theorem modObs_poisonCap (s : State) (f : Observatory → Observatory) : (modObs s f).poisonCap = s.poisonCap := rfl
@[simp] theorem modObs_tlb (s : State) (f : Observatory → Observatory) : (modObs s f).tlb = s.tlb := rfl
@[simp] theorem modObs_ctlb (s : State) (f : Observatory → Observatory) : (modObs s f).ctlb = s.ctlb := rfl
@[simp] theorem modObs_flight (s : State) (f : Observatory → Observatory) : (modObs s f).flight = s.flight := rfl
@[simp] theorem modObs_groups (s : State) (f : Observatory → Observatory) : (modObs s f).groups = s.groups := rfl
@[simp] theorem modObs_wgs (s : State) (f : Observatory → Observatory) : (modObs s f).wgs = s.wgs := rfl
@[simp] theorem modObs_gangs (s : State) (f : Observatory → Observatory) : (modObs s f).gangs = s.gangs := rfl
@[simp] theorem modObs_grids (s : State) (f : Observatory → Observatory) : (modObs s f).grids = s.grids := rfl
@[simp] theorem modObs_parts (s : State) (f : Observatory → Observatory) : (modObs s f).parts = s.parts := rfl
@[simp] theorem modObs_cores (s : State) (f : Observatory → Observatory) : (modObs s f).cores = s.cores := rfl
@[simp] theorem modObs_clusters (s : State) (f : Observatory → Observatory) : (modObs s f).clusters = s.clusters := rfl
@[simp] theorem modObs_rails (s : State) (f : Observatory → Observatory) : (modObs s f).rails = s.rails := rfl
@[simp] theorem modObs_hbmStacks (s : State) (f : Observatory → Observatory) : (modObs s f).hbmStacks = s.hbmStacks := rfl
@[simp] theorem modObs_owners (s : State) (f : Observatory → Observatory) : (modObs s f).owners = s.owners := rfl
@[simp] theorem modObs_dieHot (s : State) (f : Observatory → Observatory) : (modObs s f).dieHot = s.dieHot := rfl
@[simp] theorem modObs_off (s : State) (f : Observatory → Observatory) : (modObs s f).off = s.off := rfl
@[simp] theorem modObs_links (s : State) (f : Observatory → Observatory) : (modObs s f).links = s.links := rfl
@[simp] theorem modObs_fibres (s : State) (f : Observatory → Observatory) : (modObs s f).fibres = s.fibres := rfl
@[simp] theorem modObs_isReady (s : State) (f : Observatory → Observatory) : (modObs s f).isReady = s.isReady := rfl
@[simp] theorem modObs_scanPos (s : State) (f : Observatory → Observatory) : (modObs s f).scanPos = s.scanPos := rfl
@[simp] theorem modObs_lastRead (s : State) (f : Observatory → Observatory) : (modObs s f).lastRead = s.lastRead := rfl
@[simp] theorem modObs_obs (s : State) (f : Observatory → Observatory) : (modObs s f).obs = f s.obs := rfl

theorem groupAt_modGroup (s : State) (j k : Nat) (f : Group → Group) :
    groupAt (modGroup s j f) k = if k = j ∧ j < s.groups.length then f (groupAt s k) else groupAt s k := nth_upd _ _ _ _ _
@[simp] theorem groupAt_modGroup_same (s : State) {k : Nat} (h : k < s.groups.length) (f : Group → Group) :
    groupAt (modGroup s k f) k = f (groupAt s k) := nth_upd_same _ _ h _
theorem groupAt_modGroup_other (s : State) {j k : Nat} (h : k ≠ j) (f : Group → Group) :
    groupAt (modGroup s j f) k = groupAt s k := nth_upd_other _ _ h _
@[simp] theorem modGroup_groups_length (s : State) (k : Nat) (f : Group → Group) :
    (modGroup s k f).groups.length = s.groups.length := upd_length _ _ _
theorem wgAt_modWg (s : State) (j k : Nat) (f : Workgroup → Workgroup) :
    wgAt (modWg s j f) k = if k = j ∧ j < s.wgs.length then f (wgAt s k) else wgAt s k := nth_upd _ _ _ _ _
@[simp] theorem wgAt_modWg_same (s : State) {k : Nat} (h : k < s.wgs.length) (f : Workgroup → Workgroup) :
    wgAt (modWg s k f) k = f (wgAt s k) := nth_upd_same _ _ h _
theorem wgAt_modWg_other (s : State) {j k : Nat} (h : k ≠ j) (f : Workgroup → Workgroup) :
    wgAt (modWg s j f) k = wgAt s k := nth_upd_other _ _ h _
@[simp] theorem modWg_wgs_length (s : State) (k : Nat) (f : Workgroup → Workgroup) :
    (modWg s k f).wgs.length = s.wgs.length := upd_length _ _ _
theorem gangAt_modGang (s : State) (j k : Nat) (f : Gang → Gang) :
    gangAt (modGang s j f) k = if k = j ∧ j < s.gangs.length then f (gangAt s k) else gangAt s k := nth_upd _ _ _ _ _
@[simp] theorem gangAt_modGang_same (s : State) {k : Nat} (h : k < s.gangs.length) (f : Gang → Gang) :
    gangAt (modGang s k f) k = f (gangAt s k) := nth_upd_same _ _ h _
theorem gangAt_modGang_other (s : State) {j k : Nat} (h : k ≠ j) (f : Gang → Gang) :
    gangAt (modGang s j f) k = gangAt s k := nth_upd_other _ _ h _
@[simp] theorem modGang_gangs_length (s : State) (k : Nat) (f : Gang → Gang) :
    (modGang s k f).gangs.length = s.gangs.length := upd_length _ _ _
theorem gridAt_modGrid (s : State) (j k : Nat) (f : Grid → Grid) :
    gridAt (modGrid s j f) k = if k = j ∧ j < s.grids.length then f (gridAt s k) else gridAt s k := nth_upd _ _ _ _ _
@[simp] theorem gridAt_modGrid_same (s : State) {k : Nat} (h : k < s.grids.length) (f : Grid → Grid) :
    gridAt (modGrid s k f) k = f (gridAt s k) := nth_upd_same _ _ h _
theorem gridAt_modGrid_other (s : State) {j k : Nat} (h : k ≠ j) (f : Grid → Grid) :
    gridAt (modGrid s j f) k = gridAt s k := nth_upd_other _ _ h _
@[simp] theorem modGrid_grids_length (s : State) (k : Nat) (f : Grid → Grid) :
    (modGrid s k f).grids.length = s.grids.length := upd_length _ _ _
theorem partAt_modPart (s : State) (j k : Nat) (f : Partition → Partition) :
    partAt (modPart s j f) k = if k = j ∧ j < s.parts.length then f (partAt s k) else partAt s k := nth_upd _ _ _ _ _
@[simp] theorem partAt_modPart_same (s : State) {k : Nat} (h : k < s.parts.length) (f : Partition → Partition) :
    partAt (modPart s k f) k = f (partAt s k) := nth_upd_same _ _ h _
theorem partAt_modPart_other (s : State) {j k : Nat} (h : k ≠ j) (f : Partition → Partition) :
    partAt (modPart s j f) k = partAt s k := nth_upd_other _ _ h _
@[simp] theorem modPart_parts_length (s : State) (k : Nat) (f : Partition → Partition) :
    (modPart s k f).parts.length = s.parts.length := upd_length _ _ _
theorem clusterAt_modCluster (s : State) (j k : Nat) (f : Cluster → Cluster) :
    clusterAt (modCluster s j f) k = if k = j ∧ j < s.clusters.length then f (clusterAt s k) else clusterAt s k := nth_upd _ _ _ _ _
@[simp] theorem clusterAt_modCluster_same (s : State) {k : Nat} (h : k < s.clusters.length) (f : Cluster → Cluster) :
    clusterAt (modCluster s k f) k = f (clusterAt s k) := nth_upd_same _ _ h _
theorem clusterAt_modCluster_other (s : State) {j k : Nat} (h : k ≠ j) (f : Cluster → Cluster) :
    clusterAt (modCluster s j f) k = clusterAt s k := nth_upd_other _ _ h _
@[simp] theorem modCluster_clusters_length (s : State) (k : Nat) (f : Cluster → Cluster) :
    (modCluster s k f).clusters.length = s.clusters.length := upd_length _ _ _
@[simp] theorem wgAt_modGroup (s : State) (g : Nat) (f : Group → Group) (j : Nat) : wgAt (modGroup s g f) j = wgAt s j := rfl
@[simp] theorem gangAt_modGroup (s : State) (g : Nat) (f : Group → Group) (j : Nat) : gangAt (modGroup s g f) j = gangAt s j := rfl
@[simp] theorem gridAt_modGroup (s : State) (g : Nat) (f : Group → Group) (j : Nat) : gridAt (modGroup s g f) j = gridAt s j := rfl
@[simp] theorem partAt_modGroup (s : State) (g : Nat) (f : Group → Group) (j : Nat) : partAt (modGroup s g f) j = partAt s j := rfl
@[simp] theorem clusterAt_modGroup (s : State) (g : Nat) (f : Group → Group) (j : Nat) : clusterAt (modGroup s g f) j = clusterAt s j := rfl
@[simp] theorem groupAt_modWg (s : State) (w : Nat) (f : Workgroup → Workgroup) (j : Nat) : groupAt (modWg s w f) j = groupAt s j := rfl
@[simp] theorem gangAt_modWg (s : State) (w : Nat) (f : Workgroup → Workgroup) (j : Nat) : gangAt (modWg s w f) j = gangAt s j := rfl
@[simp] theorem gridAt_modWg (s : State) (w : Nat) (f : Workgroup → Workgroup) (j : Nat) : gridAt (modWg s w f) j = gridAt s j := rfl
@[simp] theorem partAt_modWg (s : State) (w : Nat) (f : Workgroup → Workgroup) (j : Nat) : partAt (modWg s w f) j = partAt s j := rfl
@[simp] theorem clusterAt_modWg (s : State) (w : Nat) (f : Workgroup → Workgroup) (j : Nat) : clusterAt (modWg s w f) j = clusterAt s j := rfl
@[simp] theorem groupAt_modGang (s : State) (k : Nat) (f : Gang → Gang) (j : Nat) : groupAt (modGang s k f) j = groupAt s j := rfl
@[simp] theorem wgAt_modGang (s : State) (k : Nat) (f : Gang → Gang) (j : Nat) : wgAt (modGang s k f) j = wgAt s j := rfl
@[simp] theorem gridAt_modGang (s : State) (k : Nat) (f : Gang → Gang) (j : Nat) : gridAt (modGang s k f) j = gridAt s j := rfl
@[simp] theorem partAt_modGang (s : State) (k : Nat) (f : Gang → Gang) (j : Nat) : partAt (modGang s k f) j = partAt s j := rfl
@[simp] theorem clusterAt_modGang (s : State) (k : Nat) (f : Gang → Gang) (j : Nat) : clusterAt (modGang s k f) j = clusterAt s j := rfl
@[simp] theorem groupAt_modGrid (s : State) (k : Nat) (f : Grid → Grid) (j : Nat) : groupAt (modGrid s k f) j = groupAt s j := rfl
@[simp] theorem wgAt_modGrid (s : State) (k : Nat) (f : Grid → Grid) (j : Nat) : wgAt (modGrid s k f) j = wgAt s j := rfl
@[simp] theorem gangAt_modGrid (s : State) (k : Nat) (f : Grid → Grid) (j : Nat) : gangAt (modGrid s k f) j = gangAt s j := rfl
@[simp] theorem partAt_modGrid (s : State) (k : Nat) (f : Grid → Grid) (j : Nat) : partAt (modGrid s k f) j = partAt s j := rfl
@[simp] theorem clusterAt_modGrid (s : State) (k : Nat) (f : Grid → Grid) (j : Nat) : clusterAt (modGrid s k f) j = clusterAt s j := rfl
@[simp] theorem groupAt_modPart (s : State) (p : Nat) (f : Partition → Partition) (j : Nat) : groupAt (modPart s p f) j = groupAt s j := rfl
@[simp] theorem wgAt_modPart (s : State) (p : Nat) (f : Partition → Partition) (j : Nat) : wgAt (modPart s p f) j = wgAt s j := rfl
@[simp] theorem gangAt_modPart (s : State) (p : Nat) (f : Partition → Partition) (j : Nat) : gangAt (modPart s p f) j = gangAt s j := rfl
@[simp] theorem gridAt_modPart (s : State) (p : Nat) (f : Partition → Partition) (j : Nat) : gridAt (modPart s p f) j = gridAt s j := rfl
@[simp] theorem clusterAt_modPart (s : State) (p : Nat) (f : Partition → Partition) (j : Nat) : clusterAt (modPart s p f) j = clusterAt s j := rfl
@[simp] theorem groupAt_modCluster (s : State) (c : Nat) (f : Cluster → Cluster) (j : Nat) : groupAt (modCluster s c f) j = groupAt s j := rfl
@[simp] theorem wgAt_modCluster (s : State) (c : Nat) (f : Cluster → Cluster) (j : Nat) : wgAt (modCluster s c f) j = wgAt s j := rfl
@[simp] theorem gangAt_modCluster (s : State) (c : Nat) (f : Cluster → Cluster) (j : Nat) : gangAt (modCluster s c f) j = gangAt s j := rfl
@[simp] theorem gridAt_modCluster (s : State) (c : Nat) (f : Cluster → Cluster) (j : Nat) : gridAt (modCluster s c f) j = gridAt s j := rfl
@[simp] theorem partAt_modCluster (s : State) (c : Nat) (f : Cluster → Cluster) (j : Nat) : partAt (modCluster s c f) j = partAt s j := rfl
@[simp] theorem groupAt_modCore (s : State) (p c : Nat) (f : Core → Core) (j : Nat) : groupAt (modCore s p c f) j = groupAt s j := rfl
@[simp] theorem wgAt_modCore (s : State) (p c : Nat) (f : Core → Core) (j : Nat) : wgAt (modCore s p c f) j = wgAt s j := rfl
@[simp] theorem gangAt_modCore (s : State) (p c : Nat) (f : Core → Core) (j : Nat) : gangAt (modCore s p c f) j = gangAt s j := rfl
@[simp] theorem gridAt_modCore (s : State) (p c : Nat) (f : Core → Core) (j : Nat) : gridAt (modCore s p c f) j = gridAt s j := rfl
@[simp] theorem partAt_modCore (s : State) (p c : Nat) (f : Core → Core) (j : Nat) : partAt (modCore s p c f) j = partAt s j := rfl
@[simp] theorem clusterAt_modCore (s : State) (p c : Nat) (f : Core → Core) (j : Nat) : clusterAt (modCore s p c f) j = clusterAt s j := rfl

/-! ## Parts of a group -/

theorem quadAt_modQuad (gr : Group) (j k : Nat) (f : Quad → Quad) :
    quadAt (modQuad gr j f) k = if k = j ∧ j < gr.quads.length then f (quadAt gr k) else quadAt gr k := nth_upd _ _ _ _ _
theorem splitAt_modSplit (gr : Group) (j k : Nat) (f : Split → Split) :
    splitAt (modSplit gr j f) k = if k = j ∧ j < gr.splits.length then f (splitAt gr k) else splitAt gr k :=
  nth_upd _ _ _ _ _
@[simp] theorem modQuad_length (gr : Group) (k : Nat) (f : Quad → Quad) : (modQuad gr k f).quads.length = gr.quads.length :=
  upd_length _ _ _
@[simp] theorem modSplit_length (gr : Group) (k : Nat) (f : Split → Split) :
    (modSplit gr k f).splits.length = gr.splits.length := upd_length _ _ _
@[simp] theorem modQuad_splits (gr : Group) (k : Nat) (f : Quad → Quad) : (modQuad gr k f).splits = gr.splits := rfl
@[simp] theorem modSplit_quads (gr : Group) (k : Nat) (f : Split → Split) : (modSplit gr k f).quads = gr.quads := rfl
@[simp] theorem modLane_splits (gr : Group) (l : Nat) (f : Lane → Lane) : (modLane gr l f).splits = gr.splits := rfl
@[simp] theorem quadAt_modSplit (gr : Group) (j k : Nat) (f : Split → Split) : quadAt (modSplit gr j f) k = quadAt gr k := rfl
@[simp] theorem laneAt_modSplit (gr : Group) (j l : Nat) (f : Split → Split) : laneAt (modSplit gr j f) l = laneAt gr l := rfl
@[simp] theorem splitAt_modQuad (gr : Group) (j k : Nat) (f : Quad → Quad) : splitAt (modQuad gr j f) k = splitAt gr k := rfl
@[simp] theorem splitAt_modLane (gr : Group) (l k : Nat) (f : Lane → Lane) : splitAt (modLane gr l f) k = splitAt gr k := rfl
@[simp] theorem vSet_splits (gr : Group) (l r : Nat) (x : Word) : (vSet gr l r x).splits = gr.splits := rfl
@[simp] theorem sSet_splits (gr : Group) (k r : Nat) (x : Word) : (sSet gr k r x).splits = gr.splits := rfl

/-- A valid split stands in the table of its group. -/
theorem split_in_table (gr : Group) (e : Nat) (h : (splitAt gr e).valid = true) : e < gr.splits.length := by
  by_cases hl : e < gr.splits.length
  · exact hl
  · rw [splitAt, nth, List.getD_eq_getElem?_getD, List.getElem?_eq_none (by omega)] at h
    exact absurd h (by simp)

/-- A group with a valid split exists. -/
theorem group_exists (s : State) (g e : Nat) (h : (splitAt (groupAt s g) e).valid = true) : g < s.groups.length := by
  by_cases hl : g < s.groups.length
  · exact hl
  · have : groupAt s g = {} := by rw [groupAt, nth, List.getD_eq_getElem?_getD, List.getElem?_eq_none (by omega)]; rfl
    rw [this] at h
    have h0 := split_in_table _ _ h
    simp at h0

end Sys2Proof.Machine
end

