-- ==== Sys2Proof/Laws/Clock.lean ====
section
/-!
SUPPORT. What the passing of time can do: it settles the claims of the moment, makes the cuts that are due, and changes nothing else
of the Observatory or the clock.
-/

namespace Sys2Proof.Machine

/-- A fold keeps what each of its steps keeps. -/
theorem foldl_keeps {α β σ : Type} (f : σ → α → σ) (get : σ → β) (h : ∀ s x, get (f s x) = get s) (l : List α) (s : σ) :
    get (l.foldl f s) = get s := by
  induction l generalizing s with
  | nil => rfl
  | cons x r ih => rw [List.foldl_cons, ih, h]

theorem respond_frame (s : State) (who : Claimant) (n : Nat) (b : List Byte) :
    respond s who n b = { s with obs := (respond s who n b).obs } := rfl

theorem elect_frame (s : State) (w : Claimant) : elect s w = { s with obs := (elect s w).obs } := rfl

/-- Answering claimants changes the Observatory alone. -/
theorem foldl_respond_only (l : List Claimant) (n : Nat) (b : List Byte) (s : State) :
    ∃ o, l.foldl (fun s c => respond s c n b) s = { s with obs := o } := by
  induction l generalizing s with
  | nil => exact ⟨s.obs, rfl⟩
  | cons c r ih =>
    obtain ⟨o, h⟩ := ih (respond s c n b)
    exact ⟨o, h.trans (by rw [respond_frame])⟩

/-- Settling claims changes the Observatory alone. -/
theorem settleClaims_only (s : State) : ∃ o, settleClaims s = { s with obs := o } := by
  unfold settleClaims
  split
  · exact ⟨s.obs, rfl⟩
  · obtain ⟨o, h⟩ := foldl_respond_only (s.obs.claims.filter _) 1 [] (respond (elect (modObs s _) _) _ 0 [])
    exact ⟨o, h.trans (by rw [respond_frame, elect_frame]; rfl)⟩

/-- No claim is left unsettled. -/
theorem settleClaims_none (s : State) : firstClaim s = none → settleClaims s = s := by
  intro h; simp [settleClaims, h]

theorem cutOne_obs (p : Nat) (s : State) (k : Nat) : (cutOne p s k).obs = s.obs := by
  unfold cutOne
  dsimp only
  refine (foldl_keeps _ State.obs (fun _ _ => ?_) _ _).trans ?_ <;> rfl

theorem cutOne_now (p : Nat) (s : State) (k : Nat) : (cutOne p s k).now = s.now := by
  unfold cutOne
  dsimp only
  refine (foldl_keeps _ State.now (fun _ _ => ?_) _ _).trans ?_ <;> rfl

theorem cutAll_obs (s : State) (p : Nat) : (cutAll s p).obs = s.obs := foldl_keeps _ State.obs (cutOne_obs p) _ _
theorem cutAll_now (s : State) (p : Nat) : (cutAll s p).now = s.now := foldl_keeps _ State.now (cutOne_now p) _ _

/-- What time's passing leaves of the Observatory: the claims of the moment settled, where it passes at all. -/
theorem advance_obs (s : State) (t : Nat) : (advance s t).obs = (if s.now < t then settleClaims s else s).obs :=
  foldl_keeps _ State.obs cutAll_obs _ _

theorem advance_now (s : State) (t : Nat) : (advance s t).now = max s.now t := foldl_keeps _ State.now cutAll_now _ _

end Sys2Proof.Machine
end

