-- ==== Sys2Proof/Laws/Issue.lean ====
section
/-!
SUPPORT. What an instruction that passes every check comes to: its effect, put into force (R35, R17).
-/

namespace Sys2Proof.Machine

theorem mem_bitsOf {w : Nat} (m : BitVec w) (i : Nat) : i ∈ bitsOf m ↔ i < w ∧ m.getLsbD i = true := by
  simp [bitsOf, List.mem_filter, List.mem_range]

theorem ofNat_one_shift (w i : Nat) : (BitVec.twoPow w i).getLsbD i = decide (i < w) := by
  simp [BitVec.getLsbD_twoPow]

theorem maskOf_bit (w : Nat) (l : List Nat) (i : Nat) : (maskOf w l).getLsbD i = (decide (i < w) && l.contains i) := by
  have key : ∀ (l : List Nat) (m : BitVec w),
      (l.foldl (fun m i => m ||| BitVec.twoPow w i) m).getLsbD i = (m.getLsbD i || (decide (i < w) && l.contains i)) := by
    intro l
    induction l with
    | nil => intro m; simp
    | cons x r ih =>
      intro m
      rw [List.foldl_cons, ih]
      simp only [BitVec.getLsbD_or, BitVec.getLsbD_twoPow, List.contains_cons]
      by_cases h : i = x
      · subst h; by_cases hw : i < w <;> simp [hw]
      · have h2 : ¬ x = i := fun h' => h h'.symm
        have h3 : (i == x) = false := by simpa using h
        simp [h2, h3]
  have := key l 0
  simpa [maskOf] using this

/-- The lane bits of a quad. -/
theorem quadLanes_bit (k i : Nat) (hk : k < 16) : (quadLanes k).getLsbD i = (decide (i / 4 = k)) := by
  unfold quadLanes
  rw [BitVec.getLsbD_shiftLeft]
  have h15 : (15 : LaneMask) = BitVec.ofNat 64 15 := rfl
  by_cases h : i / 4 = k
  · have h1 : i < 64 := by omega
    have h2 : ¬ i < 4 * k := by omega
    have h3 : i - 4 * k = 0 ∨ i - 4 * k = 1 ∨ i - 4 * k = 2 ∨ i - 4 * k = 3 := by omega
    rcases h3 with h3 | h3 | h3 | h3 <;> simp [h, h1, h2, h3]
  · simp only [h, decide_false]
    by_cases h1 : i < 64 <;> by_cases h2 : i < 4 * k <;> simp [h1, h2]
    have h3 : 4 ≤ i - 4 * k := by omega
    have h4 : i - 4 * k < 64 := by omega
    generalize i - 4 * k = n at h3 h4
    have : (15 : Nat).testBit n = false := by
      apply Nat.testBit_lt_two_pow
      calc 15 < 2 ^ 4 := by omega
        _ ≤ 2 ^ n := Nat.pow_le_pow_right (by omega) h3
    rw [BitVec.getLsbD_ofNat]; simp [this]

/-- A quad of an acting set holds one of the lanes. -/
theorem mem_quadsOfLanes (m : LaneMask) (k : Nat) :
    k ∈ bitsOf (quadsOfLanes m) ↔ k < 16 ∧ (m &&& quadLanes k) ≠ 0 := by
  rw [mem_bitsOf]; unfold quadsOfLanes; rw [maskOf_bit]
  simp only [List.contains_eq_mem, List.mem_filter, List.mem_range, Bool.and_eq_true, decide_eq_true_eq, bne_iff_ne]
  exact ⟨fun h => h.2.2, fun h => ⟨h.1, h.1, h⟩⟩

theorem quad_of_lane (m : LaneMask) (l : Nat) (h : l ∈ bitsOf m) : l / 4 ∈ bitsOf (quadsOfLanes m) := by
  rw [mem_bitsOf] at h
  rw [mem_quadsOfLanes]
  refine ⟨by omega, fun h0 => ?_⟩
  have : (m &&& quadLanes (l / 4)).getLsbD l = true := by
    rw [BitVec.getLsbD_and, h.2, quadLanes_bit _ _ (by omega)]; simp
  rw [h0] at this; simp at this

theorem checks_clear {s : State} {g e op d a b : Nat} (h : Clear s g e op d a b) :
    checks s g e op d a b (splitAt (groupAt s g) e).park.isSome = ([], actingQuads s g e) := by
  obtain ⟨_, _, _, _, hp, hf, hr, hqu, hq, hrd, _, _⟩ := h
  unfold checks
  simp only [hp, hf, Bool.not_true, Bool.false_or, Bool.false_eq_true, if_false]
  have hq' : ∀ k ∈ bitsOf (quadsOfLanes (splitAt (groupAt s g) e).act),
      quadCheck (groupAt s g) op d a b ((Table.row op).getD {}) k = 0 := hq
  have hgood : (bitsOf (quadsOfLanes (splitAt (groupAt s g) e).act)).filter
      (fun k => quadCheck (groupAt s g) op d a b ((Table.row op).getD {}) k == 0)
      = bitsOf (quadsOfLanes (splitAt (groupAt s g) e).act) := by
    rw [List.filter_eq_self]; intro k hk; simp [hq' k hk]
  have hbad : (takers s g e op a).filterMap (fun l =>
      if (quadCheck (groupAt s g) op d a b ((Table.row op).getD {}) (l / 4) == 0) = true then none
      else some (l, quadCheck (groupAt s g) op d a b ((Table.row op).getD {}) (l / 4), (splitAt (groupAt s g) e).pc)) = [] := by
    rw [List.filterMap_eq_nil_iff]
    intro l hl
    simp [hq' _ (quad_of_lane _ l (List.mem_filter.1 hl).1)]
  have hready : (!(splitAt (groupAt s g) e).park.isSome && anyPending s g op d a b ((Table.row op).getD {})
      (bitsOf (quadsOfLanes (splitAt (groupAt s g) e).act))) = false := by
    rcases hrd with h | h
    · simp [h]
    · have : anyPending s g op d a b ((Table.row op).getD {})
        (bitsOf (quadsOfLanes (splitAt (groupAt s g) e).act)) = false := h
      simp [this]
  have hx : (op == 0x9B && redxBad (groupAt s g) d (takers s g e op a)) = false := by
    by_cases h : op = 0x9B
    · simp only [hr h, Bool.and_false]
    · simp [h]
  rw [hgood]
  have h5 : (queueCheck s g op d a b == 5) = false := by simp [hqu]
  have h10 : (queueCheck s g op d a b == 10) = false := by simp [hqu]
  simp only [hbad, hready, hx, h5, h10, Bool.or_self, bne_self_eq_false, Bool.and_false, Bool.false_eq_true, if_false]
  rfl

/-- The active lanes all lie in the acting quads. -/
theorem acting_all (s : State) (g e : Nat) :
    (activeLanes s g e).filter (fun l => (actingQuads s g e).contains (l / 4)) = activeLanes s g e := by
  rw [List.filter_eq_self]
  intro l hl
  simpa using (show l / 4 ∈ actingQuads s g e from quad_of_lane _ l hl)

theorem actingQuads_ne {s : State} {g e : Nat} (h : (splitAt (groupAt s g) e).act ≠ 0) : actingQuads s g e ≠ [] := by
  intro h0
  apply h
  apply BitVec.eq_of_getLsbD_eq
  intro i hi
  by_cases hb : (splitAt (groupAt s g) e).act.getLsbD i = true
  · have := quad_of_lane (splitAt (groupAt s g) e).act i ((mem_bitsOf _ _).2 ⟨hi, hb⟩)
    rw [show bitsOf (quadsOfLanes (splitAt (groupAt s g) e).act) = [] from h0] at this
    simp at this
  · simpa using hb

/-- An instruction that passes every check has its effect (R35). -/
theorem issueOp_clear {s : State} {g e op : Nat} {d a b : Byte} (l : Word) (fx : Env → Eff)
    (h : Clear s g e op d.toNat a.toNat b.toNat) :
    issueOp op d a b l fx s =
      .next (finish g e op (issuedIn s g e op d.toNat a.toNat b.toNat) (splitAt (groupAt s g) e) [] (fx (envOf s g e op d.toNat a.toNat b.toNat l))) := by
  have hc := checks_clear h
  have hne := actingQuads_ne h.active
  have hall := acting_all s g e
  unfold issueOp
  simp only [h.cur, h.valid, Bool.not_true, Bool.false_eq_true, if_false, hc, hall]
  have hl : (if Table.takesGuarded op ((Table.row op).getD {}) a.toNat = true
      then (activeLanes s g e).filter (guardOn (groupAt s g)) else activeLanes s g e)
      = actingLanes s g e op a.toNat := rfl
  simp only [hl, h.clean, ite_self]
  have hres : (decide (0x20 ≤ op) && decide (op ≤ 0x51) && (groupAt s g).residue
      && !(actingLanes s g e op a.toNat).isEmpty) = false := by
    by_cases h1 : 0x20 ≤ op <;> by_cases h2 : op ≤ 0x51 <;> simp [h1, h2]
    intro h3; rw [h.residue h1 h2] at h3; simp at h3
  rw [if_neg (by rw [hres]; simp)]
  rw [if_neg (by simpa using hne)]
  rfl

/-- What becomes of an effect without faults whose instruction is followed in the same run. -/
theorem finish_next {s : State} {g e op : Nat} {run : Split → Split} {f : Eff} (hm : (splitAt (groupAt s g) e).marked = [])
    (hf : f.faults = []) (hw : f.flow = .next) (ho : closesRegion op = false) :
    finish g e op run (splitAt (groupAt s g) e) [] f =
      afterRun s (modGroup f.s g fun gr => modSplit gr e fun sp =>
        run (stepPast sp ((Table.row op).getD {}).words)) g e := by
  unfold finish afterRun
  simp [hf, hw, ho, hm, Flow.waits]

end Sys2Proof.Machine
end

