-- ==== Sys2Proof/Laws/Lanes.lean ====
section
/-!
SUPPORT. Writing registers of lanes, one lane after the other: what a fold over lanes leaves in each (R22).
-/

namespace Sys2Proof.Machine

/-- gr' is gr after the lanes who have been written; nothing but quads and the record of registers written differs. -/
structure LanesWritten (gr gr' : Group) (who : List Nat) (d : Nat) (ws : Nat → List Word) (fl : Nat → Word) : Prop where
  rest : gr' = { gr with quads := gr'.quads, writtenV := gr'.writtenV }
  len : gr'.quads.length = gr.quads.length
  lens : ∀ k, (quadAt gr' k).lanes.length = (quadAt gr k).lanes.length
  kept : ∀ k, quadKept gr gr' k
  at' : ∀ l, laneThere gr l →
    (l ∈ who → laneWritten gr gr' l d (ws l) (fl l)) ∧ (l ∉ who → laneAt gr' l = laneAt gr l)

/-- Two groups that look alike to an instruction in lane l. -/
structure LaneAlike (gr gr' : Group) (l : Nat) : Prop where
  lane : laneAt gr' l = laneAt gr l
  mode : ∀ k, modeOf gr' k = modeOf gr k
  seq : ∀ k, (quadAt gr' k).s = (quadAt gr k).s

theorem LaneAlike.vGet {gr gr' : Group} {l : Nat} (h : LaneAlike gr gr' l) (r : Nat) : vGet gr' l r = vGet gr l r := by
  simp only [Machine.vGet, h.lane]
theorem LaneAlike.vPair {gr gr' : Group} {l : Nat} (h : LaneAlike gr gr' l) (r : Nat) : vPair gr' l r = vPair gr l r := by
  simp only [Machine.vPair, h.vGet]
theorem LaneAlike.vRead {gr gr' : Group} {l : Nat} (h : LaneAlike gr gr' l) (r : Nat) (w : Bool) :
    vRead gr' l r w = vRead gr l r w := by simp only [Machine.vRead, h.vGet, h.vPair]
theorem LaneAlike.pGet {gr gr' : Group} {l : Nat} (h : LaneAlike gr gr' l) (r : Nat) : pGet gr' l r = pGet gr l r := by
  simp only [Machine.pGet, h.lane]
theorem LaneAlike.sGet {gr gr' : Group} {l : Nat} (h : LaneAlike gr gr' l) (k r : Nat) : sGet gr' k r = sGet gr k r := by
  simp only [Machine.sGet, h.seq]
theorem LaneAlike.sPair {gr gr' : Group} {l : Nat} (h : LaneAlike gr gr' l) (k r : Nat) : sPair gr' k r = sPair gr k r := by
  simp only [Machine.sPair, h.sGet]
theorem LaneAlike.guardOn {gr gr' : Group} {l : Nat} (h : LaneAlike gr gr' l) : guardOn gr' l = guardOn gr l := by
  simp only [Machine.guardOn, h.mode, h.pGet]

theorem LanesWritten.alike {gr gr' : Group} {who : List Nat} {d : Nat} {ws : Nat → List Word} {fl : Nat → Word}
    (h : LanesWritten gr gr' who d ws fl) {l : Nat} (hl : l ∉ who) : LaneAlike gr gr' l := by
  refine ⟨?_, fun k => ?_, fun k => ?_⟩
  · by_cases ht : laneThere gr l
    · exact (h.at' l ht).2 hl
    · have hn : ∀ g : Group, (¬ laneThere g l) → laneAt g l = {} := by
        intro g hg
        unfold laneThere at hg
        by_cases h1 : l / 4 < g.quads.length
        · have h2 : (quadAt g (l / 4)).lanes.length ≤ l % 4 := by omega
          rw [laneAt, nth, List.getD_eq_getElem?_getD, List.getElem?_eq_none h2]; rfl
        · have h2 : quadAt g (l / 4) = {} := by
            rw [quadAt, nth, List.getD_eq_getElem?_getD, List.getElem?_eq_none (by omega)]; rfl
          rw [laneAt, h2, nth]
          have : l % 4 = 0 ∨ l % 4 = 1 ∨ l % 4 = 2 ∨ l % 4 = 3 := by omega
          rcases this with h | h | h | h <;> rw [h] <;> rfl
      rw [hn gr ht, hn gr']
      unfold laneThere at ht ⊢; rw [h.len, h.lens]; exact ht
  · have := h.kept k; unfold quadKept at this; unfold modeOf; rw [this]
  · have := h.kept k; unfold quadKept at this; rw [this]

theorem LanesWritten.refl (gr : Group) (d : Nat) (ws : Nat → List Word) (fl : Nat → Word) :
    LanesWritten gr gr [] d ws fl :=
  ⟨rfl, rfl, fun _ => rfl, fun _ => rfl, fun _ _ => ⟨fun h => by simp at h, fun _ => rfl⟩⟩

theorem LanesWritten.there {gr gr' : Group} {who : List Nat} {d : Nat} {ws : Nat → List Word} {fl : Nat → Word}
    (h : LanesWritten gr gr' who d ws fl) (l : Nat) : laneThere gr' l ↔ laneThere gr l := by
  unfold laneThere; rw [h.len, h.lens]

/-- A fold over distinct lanes writes each from what it held before. -/
theorem each_lanes (d : Nat) (f : Nat → Group → Group) (W : Group → Nat → List Word) (F : Group → Nat → Word)
    (hf : ∀ l gr, LanesWritten gr (f l gr) [l] d (W gr) (F gr))
    (hW : ∀ gr gr' l, LaneAlike gr gr' l → W gr' l = W gr l)
    (hF : ∀ gr gr' l, LaneAlike gr gr' l → F gr' l = F gr l)
    (who : List Nat) (hn : who.Nodup) (gr : Group) :
    LanesWritten gr (each who f gr) who d (W gr) (F gr) := by
  induction who generalizing gr with
  | nil => exact LanesWritten.refl _ _ _ _
  | cons l ls ih =>
    have h1 := hf l gr
    rw [List.nodup_cons] at hn
    have h2 := ih hn.2 (f l gr)
    have he : each (l :: ls) f gr = each ls f (f l gr) := rfl
    rw [he]
    refine ⟨?_, h2.len.trans h1.len, fun k => (h2.lens k).trans (h1.lens k), fun k => ?_, fun j hj => ?_⟩
    · have a := h1.rest; have b := h2.rest; rw [b, a]
    · have a := h1.kept k; have b := h2.kept k; unfold quadKept at *; rw [b, a]
    · have hj' := (h1.there j).2 hj
      have a := h1.at' j hj; have b := h2.at' j hj'
      refine ⟨fun hm => ?_, fun hm => ?_⟩
      · by_cases hjl : j = l
        · subst hjl
          have hb := b.2 hn.1
          have ha := a.1 (by simp)
          refine ⟨fun r => ?_, ?_⟩
          · simp only [vGet, hb]; exact ha.1 r
          · rw [hb]; exact ha.2
        · have hm' : j ∈ ls := by simpa [hjl] using hm
          have hb := b.1 hm'
          have ha := a.2 (by simpa using hjl)
          have al := h1.alike (l := j) (by simpa using hjl)
          rw [hW _ _ _ al, hF _ _ _ al] at hb
          refine ⟨fun r => ?_, ?_⟩
          · rw [hb.1 r, al.vGet]
          · rw [hb.2, ha]
      · have h3 : j ≠ l ∧ j ∉ ls := by simpa using hm
        rw [b.2 h3.2, a.2 (by simpa using h3.1)]

/-! ## One lane -/

theorem laneAt_modLane (gr : Group) (l j : Nat) (f : Lane → Lane) :
    laneAt (modLane gr l f) j = if j = l ∧ laneThere gr l then f (laneAt gr l) else laneAt gr j := by
  unfold laneAt modLane
  rw [quadAt_modQuad]
  by_cases h1 : j / 4 = l / 4 ∧ l / 4 < gr.quads.length
  · rw [if_pos h1, nth_upd]
    by_cases h2 : j % 4 = l % 4
    · have hjl : j = l := by omega
      subst hjl
      by_cases h3 : j % 4 < (quadAt gr (j / 4)).lanes.length
      · rw [if_pos ⟨rfl, h3⟩, if_pos ⟨rfl, h1.2, h3⟩]
      · rw [if_neg (by simp [h3]), if_neg (by unfold laneThere; simp [h3])]
    · rw [if_neg (by simp [h2]), if_neg (by intro h; exact h2 (by rw [h.1]))]
  · rw [if_neg h1, if_neg]
    rintro ⟨rfl, h2, _⟩; exact h1 ⟨rfl, h2⟩

theorem quadAt_modLane_kept (gr : Group) (l k : Nat) (f : Lane → Lane) : quadKept gr (modLane gr l f) k := by
  unfold quadKept modLane
  rw [quadAt_modQuad]; split <;> simp

theorem quadAt_modLane_length (gr : Group) (l k : Nat) (f : Lane → Lane) :
    (quadAt (modLane gr l f) k).lanes.length = (quadAt gr k).lanes.length := by
  unfold modLane; rw [quadAt_modQuad]; split <;> simp

@[simp] theorem modLane_length (gr : Group) (l : Nat) (f : Lane → Lane) :
    (modLane gr l f).quads.length = gr.quads.length := modQuad_length _ _ _

theorem modLane_rest (gr : Group) (l : Nat) (f : Lane → Lane) :
    modLane gr l f = { gr with quads := (modLane gr l f).quads } := rfl

/-- One register of one lane. -/
theorem vSet_written (gr : Group) (l r : Nat) (x : Word) (ws : Nat → List Word) (fl : Nat → Word) (hw : ws l = [x])
    (hf : fl l = 0) : LanesWritten gr (vSet gr l r x) [l] r ws fl := by
  refine ⟨rfl, modLane_length _ _ _, fun k => quadAt_modLane_length _ _ _ _, fun k => quadAt_modLane_kept _ _ _ _, fun j hj => ?_⟩
  have key : ∀ i, laneAt (vSet gr l r x) i = if i = l ∧ laneThere gr l then
      { laneAt gr l with v := cellPut 0 r x (laneAt gr l).v, poison := setDel r (laneAt gr l).poison,
                         errV := setDel r (laneAt gr l).errV } else laneAt gr i := fun i => laneAt_modLane gr l i _
  refine ⟨fun hm => ?_, fun hm => ?_⟩
  · have : j = l := by simpa using hm
    subst this
    have hk := key j
    rw [if_pos ⟨rfl, hj⟩] at hk
    refine ⟨fun i => ?_, ?_⟩
    · simp only [vGet, hk, cellGet_put, hw, wordAfter]
      by_cases hi : i = r
      · subst hi; simp
      · rw [if_neg hi]; split
        · have : i - r = (i - r - 1) + 1 := by omega
          rw [this]; rfl
        · rfl
    · rw [hk, hf]; simp
  · rw [key, if_neg (by simp at hm; simp [hm])]

theorem LanesWritten.flags {gr gr' : Group} {l d : Nat} {ws : Nat → List Word} {fl : Nat → Word} (x : Word)
    (h : LanesWritten gr gr' [l] d ws fl) (fl' : Nat → Word) (hx : fl' l = fl l ||| x) :
    LanesWritten gr (orFlags gr' l x) [l] d ws fl' := by
  refine ⟨?_, (modLane_length _ _ _).trans h.len, fun k => (quadAt_modLane_length _ _ _ _).trans (h.lens k), fun k => ?_, fun j hj => ?_⟩
  · have := h.rest
    show (modLane gr' l _) = _
    rw [modLane_rest]; rw [this]; rfl
  · have a := quadAt_modLane_kept gr' l k fun ln => { ln with fflags := ln.fflags ||| x }
    have b := h.kept k
    unfold orFlags quadKept at *; rw [a, b]
  · have key : ∀ i, laneAt (orFlags gr' l x) i = if i = l ∧ laneThere gr' l then
        { laneAt gr' l with fflags := (laneAt gr' l).fflags ||| x } else laneAt gr' i := fun i => laneAt_modLane gr' l i _
    refine ⟨fun hm => ?_, fun hm => ?_⟩
    · have : j = l := by simpa using hm
      subst this
      have a := (h.at' j hj).1 (by simp)
      have hk := key j
      rw [if_pos ⟨rfl, (h.there j).2 hj⟩] at hk
      refine ⟨fun r => ?_, ?_⟩
      · rw [← a.1 r]; simp only [vGet, hk]
      · rw [hk, a.2, hx]; simp [BitVec.or_assoc]
    · rw [key, if_neg (by simp at hm; simp [hm])]; exact (h.at' j hj).2 hm

/-- Two runs of one lane, one after the other. -/
theorem LanesWritten.snoc {gr gr' gr'' : Group} {l d : Nat} {ws ws' ws'' : Nat → List Word} {fl fl' : Nat → Word}
    (h : LanesWritten gr gr' [l] d ws fl) (h' : LanesWritten gr' gr'' [l] (d + (ws l).length) ws' fl')
    (hf : fl' l = 0) (hws : ws'' l = ws l ++ ws' l) : LanesWritten gr gr'' [l] d ws'' fl := by
  refine ⟨?_, h'.len.trans h.len, fun k => (h'.lens k).trans (h.lens k), fun k => ?_, fun j hj => ?_⟩
  · have a := h.rest; have b := h'.rest; rw [b, a]
  · have a := h.kept k; have b := h'.kept k; unfold quadKept at *; rw [b, a]
  · have a := h.at' j hj; have b := h'.at' j ((h.there j).2 hj)
    refine ⟨fun hm => ?_, fun hm => ?_⟩
    · have hjl : j = l := by simpa using hm
      subst hjl
      have a := a.1 hm; have b := b.1 hm
      refine ⟨fun r => ?_, ?_⟩
      · rw [b.1 r, a.1 r, hws]
        unfold wordAfter
        by_cases h1 : d ≤ r
        · by_cases h2 : d + (ws j).length ≤ r
          · rw [if_pos h2, if_pos h1, if_pos h1, List.getD_eq_getElem?_getD, List.getD_eq_getElem?_getD,
              List.getD_eq_getElem?_getD, List.getElem?_append_right (by omega),
              List.getElem?_eq_none (l := ws j) (by omega)]
            rw [show r - d - (ws j).length = r - (d + (ws j).length) by omega]; rfl
          · rw [if_neg h2, if_pos h1, if_pos h1, List.getD_eq_getElem?_getD, List.getD_eq_getElem?_getD,
              List.getElem?_append_left (by omega)]
        · rw [if_neg (by omega), if_neg h1, if_neg h1]
      · rw [b.2, a.2, hf]; simp
    · rw [b.2 hm, a.2 hm]

/-- A run of registers of one lane. -/
theorem vSetRun_written (gr : Group) (l r : Nat) (xs : List Word) (ws : Nat → List Word) (fl : Nat → Word)
    (hw : ws l = xs) (hf : fl l = 0) : LanesWritten gr (vSetRun gr l r xs) [l] r ws fl := by
  induction xs generalizing gr r ws with
  | nil =>
    refine ⟨rfl, rfl, fun _ => rfl, fun _ => rfl, fun j _ => ⟨fun hm => ?_, fun _ => rfl⟩⟩
    have : j = l := by simpa using hm
    subst this
    refine ⟨fun i => ?_, by simp [hf, vSetRun]⟩
    rw [hw]; unfold wordAfter; split <;> rfl
  | cons x xs ih =>
    have h1 := vSet_written gr l r x (fun _ => [x]) fl rfl hf
    have h2 := ih (vSet gr l r x) (r + 1) (fun _ => xs) rfl
    exact h1.snoc (ws' := fun _ => xs) h2 hf (by simp [hw])

theorem bitsOf_nodup {w : Nat} (m : BitVec w) : (bitsOf m).Nodup := List.Nodup.sublist List.filter_sublist List.nodup_range

theorem actingLanes_nodup (s : State) (g e op a : Nat) : (actingLanes s g e op a).Nodup := by
  unfold actingLanes activeLanes
  split
  · exact (bitsOf_nodup _).sublist List.filter_sublist
  · exact bitsOf_nodup _

/-- A lane instruction whose effect is a fold over its lanes writes them as WritesLanes says. -/
theorem writesLanes_of {s : State} {g e op : Nat} {d a b : Byte} (l : Word) (who : List Nat) (hn : who.Nodup)
    (dd : Nat) (fx : Env → Eff)
    (f : Nat → Group → Group) (W : Group → Nat → List Word) (F : Group → Nat → Word)
    (h : Clear s g e op d.toNat a.toNat b.toNat) (ho : closesRegion op = false)
    (hfx : fx (envOf s g e op d.toNat a.toNat b.toNat l) = { s := modGroup s g (each who f) })
    (hf : ∀ l gr, LanesWritten gr (f l gr) [l] dd (W gr) (F gr))
    (hW : ∀ gr gr' l, LaneAlike gr gr' l → W gr' l = W gr l)
    (hF : ∀ gr gr' l, LaneAlike gr gr' l → F gr' l = F gr l) :
    WritesLanes s g e ((Table.row op).getD {}).words who dd (W (groupAt s g)) (F (groupAt s g)) (issueOp op d a b l fx s) := by
  have hg := group_exists s g e h.valid
  have hx := each_lanes dd f W F hf hW hF who hn (groupAt s g)
  rw [issueOp_clear l fx h, finish_next h.unmarked (by rw [hfx]) (by rw [hfx]) ho, hfx]
  let w := ((Table.row op).getD {}).words
  let past (sp : Split) : Split := issuedIn s g e op d.toNat a.toNat b.toNat (stepPast sp w)
  let gr' := modSplit (each who f (groupAt s g)) e past
  let t : State := modGroup (modGroup s g (each who f)) g fun gr => modSplit gr e past
  have hat : groupAt t g = gr' := by
    show groupAt (modGroup (modGroup s g (each who f)) g _) g = _
    rw [groupAt_modGroup_same _ (by simpa using hg), groupAt_modGroup_same _ hg]
  have hsp : (each who f (groupAt s g)).splits = (groupAt s g).splits := by rw [hx.rest]
  have he := split_in_table _ _ h.valid
  have hspl : ∀ j, splitAt gr' j = if j = e then past (splitAt (groupAt s g) e) else splitAt (groupAt s g) j := by
    intro j
    show splitAt (modSplit _ _ _) j = _
    rw [splitAt_modSplit, hsp]
    simp only [splitAt, hsp]
    by_cases hj : j = e
    · subst hj; simp [he]
    · simp [hj]
  refine ⟨t, rfl, ⟨rfl, by simp [t], fun k hk => ?_⟩, ?_, fun k => ?_, fun j hj => ?_⟩
  · show groupAt (modGroup (modGroup s g (each who f)) g _) k = _
    rw [groupAt_modGroup_other _ hk, groupAt_modGroup_other _ hk]
  · rw [hat]
    refine ⟨?_, by simpa [gr'] using hx.len, fun j => ?_⟩
    · have hr := hx.rest
      have hS : (each who f (groupAt s g)).writtenS = (groupAt s g).writtenS := by rw [hr]
      have hP : (each who f (groupAt s g)).writtenP = (groupAt s g).writtenP := by rw [hr]
      show modSplit (each who f (groupAt s g)) e past = _
      conv => lhs; rw [hr]
      simp only [gr', modSplit, hsp, hS, hP]
    · by_cases hj : j = e
      · subst hj; rw [hspl, if_pos rfl, if_pos rfl]; rfl
      · rw [hspl, if_neg hj, if_neg hj]
  · have := hx.kept k
    unfold quadKept at *
    rw [hat]; exact this
  · have := hx.at' j hj
    rw [hat]; exact this

theorem vWrite_written (gr : Group) (l r : Nat) (wide : Bool) (x : Nat) (ws : Nat → List Word) (fl : Nat → Word)
    (hw : ws l = numWords wide x) (hf : fl l = 0) : LanesWritten gr (vWrite gr l r wide x) [l] r ws fl := by
  unfold vWrite numWords at *
  split
  · rename_i h; rw [if_pos h] at hw; exact vSetRun_written _ _ _ _ _ _ hw hf
  · rename_i h; rw [if_neg h] at hw; exact vSet_written _ _ _ _ _ _ hw hf

/-- Every instruction built on laneResult (R39, R49): words and flags of each lane from what it held before. -/
theorem laneResult_writes {s : State} {g e op : Nat} {d a b : Byte} (l : Word) (fx : Env → Eff) (wide : Word → Bool)
    (f : Env → Group → Nat → Word → Nat × Word)
    (h : Clear s g e op d.toNat a.toNat b.toNat) (ho : closesRegion op = false)
    (hfx : ∀ v, fx v = v.laneResult wide (f v))
    (hf : ∀ v gr gr' l m, LaneAlike gr gr' l → f v gr' l m = f v gr l m) :
    WritesLanes s g e ((Table.row op).getD {}).words (actingLanes s g e op a.toNat) d.toNat
      (fun j => numWords (wide (modeOf (groupAt s g) (j / 4)))
        (f (envOf s g e op d.toNat a.toNat b.toNat l) (groupAt s g) j (modeOf (groupAt s g) (j / 4))).1)
      (fun j => (f (envOf s g e op d.toNat a.toNat b.toNat l) (groupAt s g) j (modeOf (groupAt s g) (j / 4))).2)
      (issueOp op d a b l fx s) := by
  have key : fx (envOf s g e op d.toNat a.toNat b.toNat l) = { s := modGroup s g (each (actingLanes s g e op a.toNat)
      (fun j gr => orFlags (vWrite gr j d.toNat (wide (modeOf gr (j / 4)))
        (f (envOf s g e op d.toNat a.toNat b.toNat l) gr j (modeOf gr (j / 4))).1) j
        (f (envOf s g e op d.toNat a.toNat b.toNat l) gr j (modeOf gr (j / 4))).2)) } := by
    rw [hfx]; rfl
  have hf' := hf (envOf s g e op d.toNat a.toNat b.toNat l)
  generalize f (envOf s g e op d.toNat a.toNat b.toNat l) = F at key hf' ⊢
  refine writesLanes_of l (actingLanes s g e op a.toNat) (actingLanes_nodup _ _ _ _ _) d.toNat fx _
    (fun gr j => numWords (wide (modeOf gr (j / 4))) (F gr j (modeOf gr (j / 4))).1)
    (fun gr j => (F gr j (modeOf gr (j / 4))).2) h ho key ?_ ?_ ?_
  · intro j gr
    have h0 := vWrite_written gr j d.toNat (wide (modeOf gr (j / 4))) (F gr j (modeOf gr (j / 4))).1
      (fun j => numWords (wide (modeOf gr (j / 4))) (F gr j (modeOf gr (j / 4))).1) (fun _ => 0#32) rfl rfl
    exact h0.flags (F gr j (modeOf gr (j / 4))).2 (fun j => (F gr j (modeOf gr (j / 4))).2) (by rw [BitVec.zero_or])
  · intro gr gr' j al; simp only [al.mode, hf' _ _ _ _ al]
  · intro gr gr' j al; simp only [al.mode, hf' _ _ _ _ al]

end Sys2Proof.Machine
end

