-- ==== Sys2Proof/Laws/PerInstr.lean ====
section
/-!
SUPPORT. Decoding what the encoder writes, instruction by instruction: the words of every well-formed instruction decode to
it (family RoundTrip of LAWS.json).
-/

namespace Sys2Proof.Laws
open Sys2Proof

/-- The bytes of a word are the word. -/
theorem wordOfBytes_bytesOfWord (w : Word) :
    wordOfBytes (w.extractLsb' 0 8) (w.extractLsb' 8 8) (w.extractLsb' 16 8) (w.extractLsb' 24 8) = w := by
  apply BitVec.eq_of_toNat_eq
  simp only [wordOfBytes, BitVec.toNat_append, BitVec.extractLsb'_toNat, Nat.shiftRight_eq_div_pow]
  rw [Nat.shiftLeft_add_eq_or_of_lt .. |>.symm, Nat.shiftLeft_add_eq_or_of_lt .. |>.symm,
    Nat.shiftLeft_add_eq_or_of_lt .. |>.symm]
  · have := w.isLt
    simp only [Nat.shiftLeft_eq]; omega
  all_goals omega


@[simp] theorem opcodeOf_mkWord (op d a b : Byte) : opcodeOf (mkWord op d a b) = op := by
  apply BitVec.eq_of_toNat_eq
  have := op.isLt; have := d.isLt; have := a.isLt; have := b.isLt
  simp only [opcodeOf, mkWord, BitVec.toNat_append, BitVec.extractLsb'_toNat, Nat.shiftRight_eq_div_pow]
  rw [Nat.shiftLeft_add_eq_or_of_lt .. |>.symm, Nat.shiftLeft_add_eq_or_of_lt .. |>.symm,
    Nat.shiftLeft_add_eq_or_of_lt .. |>.symm]
  · simp only [Nat.shiftLeft_eq]; omega
  all_goals omega


@[simp] theorem fieldD_mkWord (op d a b : Byte) : fieldD (mkWord op d a b) = d := by
  apply BitVec.eq_of_toNat_eq
  have := op.isLt; have := d.isLt; have := a.isLt; have := b.isLt
  simp only [fieldD, mkWord, BitVec.toNat_append, BitVec.extractLsb'_toNat, Nat.shiftRight_eq_div_pow]
  rw [Nat.shiftLeft_add_eq_or_of_lt .. |>.symm, Nat.shiftLeft_add_eq_or_of_lt .. |>.symm,
    Nat.shiftLeft_add_eq_or_of_lt .. |>.symm]
  · simp only [Nat.shiftLeft_eq]; omega
  all_goals omega


@[simp] theorem fieldA_mkWord (op d a b : Byte) : fieldA (mkWord op d a b) = a := by
  apply BitVec.eq_of_toNat_eq
  have := op.isLt; have := d.isLt; have := a.isLt; have := b.isLt
  simp only [fieldA, mkWord, BitVec.toNat_append, BitVec.extractLsb'_toNat, Nat.shiftRight_eq_div_pow]
  rw [Nat.shiftLeft_add_eq_or_of_lt .. |>.symm, Nat.shiftLeft_add_eq_or_of_lt .. |>.symm,
    Nat.shiftLeft_add_eq_or_of_lt .. |>.symm]
  · simp only [Nat.shiftLeft_eq]; omega
  all_goals omega


@[simp] theorem fieldB_mkWord (op d a b : Byte) : fieldB (mkWord op d a b) = b := by
  apply BitVec.eq_of_toNat_eq
  have := op.isLt; have := d.isLt; have := a.isLt; have := b.isLt
  simp only [fieldB, mkWord, BitVec.toNat_append, BitVec.extractLsb'_toNat, Nat.shiftRight_eq_div_pow]
  rw [Nat.shiftLeft_add_eq_or_of_lt .. |>.symm, Nat.shiftLeft_add_eq_or_of_lt .. |>.symm,
    Nat.shiftLeft_add_eq_or_of_lt .. |>.symm]
  · simp only [Nat.shiftLeft_eq]; omega
  all_goals omega


/-- A one-word instruction is read from four bytes. -/
theorem decode_word (w : Word) (rest : List Byte) (h : isTwoWord (opcodeOf w) = false) :
    decode (bytesOfWord w ++ rest) = .ok (decodeWord w 0, rest) := by
  simp only [bytesOfWord, List.cons_append, List.nil_append, decode, wordOfBytes_bytesOfWord, h]
  rfl

/-- A two-word instruction is read from eight bytes. -/
theorem decode_words (w l : Word) (rest : List Byte) (h : isTwoWord (opcodeOf w) = true) :
    decode (bytesOfWord w ++ (bytesOfWord l ++ rest)) = .ok (decodeWord w l, rest) := by
  simp only [bytesOfWord, List.cons_append, List.nil_append, decode, wordOfBytes_bytesOfWord, h]
  rfl

/-- The words of an instruction, little-endian and whatever follows them, decode to it. -/
def RoundTrip.Statement (i : Instr) : Prop :=
  ∀ (ws : List Word) (rest : List Byte), i.wf = true → encode i = some ws →
    decode (ws.flatMap bytesOfWord ++ rest) = .ok (i, rest)

/-- The round trip of a one-word instruction. -/
theorem roundTrip_one {i : Instr} {w : Word} (he : encode i = some [w]) (h : isTwoWord (opcodeOf w) = false)
    (hd : i.wf = true → decodeWord w 0 = i) : RoundTrip.Statement i := by
  intro ws rest hw h'
  rw [he] at h'
  cases h'
  simp only [List.flatMap_cons, List.flatMap_nil, List.append_nil]
  rw [decode_word w rest h, hd hw]

/-- The round trip of a two-word instruction. -/
theorem roundTrip_two {i : Instr} {w l : Word} (he : encode i = some [w, l]) (h : isTwoWord (opcodeOf w) = true)
    (hd : decodeWord w l = i) : RoundTrip.Statement i := by
  intro ws rest _ h'
  rw [he] at h'
  cases h'
  simp only [List.flatMap_cons, List.flatMap_nil, List.append_nil, List.append_assoc]
  rw [decode_words w l rest h, hd]

/-- An event has no words. -/
theorem roundTrip_none {i : Instr} (he : encode i = none) : RoundTrip.Statement i := by
  intro ws rest _ h'
  rw [he] at h'
  cases h'


theorem RoundTrip.nop (d a b : Byte) : RoundTrip.Statement (.nop d a b) :=
  roundTrip_one rfl (by simp [isTwoWord]) (by simp [decodeWord, decodeFlow])
theorem RoundTrip.bra (d a b : Byte) (l : Word) : RoundTrip.Statement (.bra d a b l) :=
  roundTrip_two rfl (by simp [isTwoWord]) (by simp [decodeWord, decodeFlow])
theorem RoundTrip.brs (d a b : Byte) (l : Word) : RoundTrip.Statement (.brs d a b l) :=
  roundTrip_two rfl (by simp [isTwoWord]) (by simp [decodeWord, decodeFlow])
theorem RoundTrip.brd (d a b : Byte) (l : Word) : RoundTrip.Statement (.brd d a b l) :=
  roundTrip_two rfl (by simp [isTwoWord]) (by simp [decodeWord, decodeFlow])
theorem RoundTrip.join (d a b : Byte) : RoundTrip.Statement (.join d a b) :=
  roundTrip_one rfl (by simp [isTwoWord]) (by simp [decodeWord, decodeFlow])
theorem RoundTrip.brk (d a b : Byte) (l : Word) : RoundTrip.Statement (.brk d a b l) :=
  roundTrip_two rfl (by simp [isTwoWord]) (by simp [decodeWord, decodeFlow])
theorem RoundTrip.jt (d a b : Byte) : RoundTrip.Statement (.jt d a b) :=
  roundTrip_one rfl (by simp [isTwoWord]) (by simp [decodeWord, decodeFlow])
theorem RoundTrip.call (d a b : Byte) (l : Word) : RoundTrip.Statement (.call d a b l) :=
  roundTrip_two rfl (by simp [isTwoWord]) (by simp [decodeWord, decodeFlow])
theorem RoundTrip.calli (d a b : Byte) : RoundTrip.Statement (.calli d a b) :=
  roundTrip_one rfl (by simp [isTwoWord]) (by simp [decodeWord, decodeFlow])
theorem RoundTrip.ret (d a b : Byte) : RoundTrip.Statement (.ret d a b) :=
  roundTrip_one rfl (by simp [isTwoWord]) (by simp [decodeWord, decodeFlow])
theorem RoundTrip.exit (d a b : Byte) : RoundTrip.Statement (.exit d a b) :=
  roundTrip_one rfl (by simp [isTwoWord]) (by simp [decodeWord, decodeFlow])
theorem RoundTrip.demote (d a b : Byte) : RoundTrip.Statement (.demote d a b) :=
  roundTrip_one rfl (by simp [isTwoWord]) (by simp [decodeWord, decodeFlow])
theorem RoundTrip.apt (d a b : Byte) : RoundTrip.Statement (.apt d a b) :=
  roundTrip_one rfl (by simp [isTwoWord]) (by simp [decodeWord, decodeFlow])
theorem RoundTrip.rgrow (d a b : Byte) : RoundTrip.Statement (.rgrow d a b) :=
  roundTrip_one rfl (by simp [isTwoWord]) (by simp [decodeWord, decodeFlow])
theorem RoundTrip.rshrk (d a b : Byte) : RoundTrip.Statement (.rshrk d a b) :=
  roundTrip_one rfl (by simp [isTwoWord]) (by simp [decodeWord, decodeFlow])
theorem RoundTrip.idem (d a b : Byte) : RoundTrip.Statement (.idem d a b) :=
  roundTrip_one rfl (by simp [isTwoWord]) (by simp [decodeWord, decodeFlow])
theorem RoundTrip.mode (d a b : Byte) : RoundTrip.Statement (.mode d a b) :=
  roundTrip_one rfl (by simp [isTwoWord]) (by simp [decodeWord, decodeMode])
theorem RoundTrip.modx (d a b : Byte) : RoundTrip.Statement (.modx d a b) :=
  roundTrip_one rfl (by simp [isTwoWord]) (by simp [decodeWord, decodeMode])
theorem RoundTrip.grd (d a b : Byte) : RoundTrip.Statement (.grd d a b) :=
  roundTrip_one rfl (by simp [isTwoWord]) (by simp [decodeWord, decodeMode])
theorem RoundTrip.trap (d a b : Byte) : RoundTrip.Statement (.trap d a b) :=
  roundTrip_one rfl (by simp [isTwoWord]) (by simp [decodeWord, decodeMode])
theorem RoundTrip.rett (d a b : Byte) : RoundTrip.Statement (.rett d a b) :=
  roundTrip_one rfl (by simp [isTwoWord]) (by simp [decodeWord, decodeMode])
theorem RoundTrip.gets (d a b : Byte) : RoundTrip.Statement (.gets d a b) :=
  roundTrip_one rfl (by simp [isTwoWord]) (by simp [decodeWord, decodeMode])
theorem RoundTrip.sets (d a b : Byte) : RoundTrip.Statement (.sets d a b) :=
  roundTrip_one rfl (by simp [isTwoWord]) (by simp [decodeWord, decodeMode])
theorem RoundTrip.launch (d a b : Byte) : RoundTrip.Statement (.launch d a b) :=
  roundTrip_one rfl (by simp [isTwoWord]) (by simp [decodeWord, decodeMode])
theorem RoundTrip.tlbi (d a b : Byte) : RoundTrip.Statement (.tlbi d a b) :=
  roundTrip_one rfl (by simp [isTwoWord]) (by simp [decodeWord, decodeMode])
theorem RoundTrip.add (d a b : Byte) : RoundTrip.Statement (.add d a b) :=
  roundTrip_one rfl (by simp [isTwoWord]) (by simp [decodeWord, decodeInt])
theorem RoundTrip.sub (d a b : Byte) : RoundTrip.Statement (.sub d a b) :=
  roundTrip_one rfl (by simp [isTwoWord]) (by simp [decodeWord, decodeInt])
theorem RoundTrip.mul (d a b : Byte) : RoundTrip.Statement (.mul d a b) :=
  roundTrip_one rfl (by simp [isTwoWord]) (by simp [decodeWord, decodeInt])
theorem RoundTrip.mulh (d a b : Byte) : RoundTrip.Statement (.mulh d a b) :=
  roundTrip_one rfl (by simp [isTwoWord]) (by simp [decodeWord, decodeInt])
theorem RoundTrip.mad (d a b : Byte) : RoundTrip.Statement (.mad d a b) :=
  roundTrip_one rfl (by simp [isTwoWord]) (by simp [decodeWord, decodeInt])
theorem RoundTrip.min (d a b : Byte) : RoundTrip.Statement (.min d a b) :=
  roundTrip_one rfl (by simp [isTwoWord]) (by simp [decodeWord, decodeInt])
theorem RoundTrip.max (d a b : Byte) : RoundTrip.Statement (.max d a b) :=
  roundTrip_one rfl (by simp [isTwoWord]) (by simp [decodeWord, decodeInt])
theorem RoundTrip.and (d a b : Byte) : RoundTrip.Statement (.and d a b) :=
  roundTrip_one rfl (by simp [isTwoWord]) (by simp [decodeWord, decodeInt])
theorem RoundTrip.or (d a b : Byte) : RoundTrip.Statement (.or d a b) :=
  roundTrip_one rfl (by simp [isTwoWord]) (by simp [decodeWord, decodeInt])
theorem RoundTrip.xor (d a b : Byte) : RoundTrip.Statement (.xor d a b) :=
  roundTrip_one rfl (by simp [isTwoWord]) (by simp [decodeWord, decodeInt])
theorem RoundTrip.andn (d a b : Byte) : RoundTrip.Statement (.andn d a b) :=
  roundTrip_one rfl (by simp [isTwoWord]) (by simp [decodeWord, decodeInt])
theorem RoundTrip.shl (d a b : Byte) : RoundTrip.Statement (.shl d a b) :=
  roundTrip_one rfl (by simp [isTwoWord]) (by simp [decodeWord, decodeInt])
theorem RoundTrip.shr (d a b : Byte) : RoundTrip.Statement (.shr d a b) :=
  roundTrip_one rfl (by simp [isTwoWord]) (by simp [decodeWord, decodeInt])
theorem RoundTrip.sar (d a b : Byte) : RoundTrip.Statement (.sar d a b) :=
  roundTrip_one rfl (by simp [isTwoWord]) (by simp [decodeWord, decodeInt])
theorem RoundTrip.bfe (d a b : Byte) : RoundTrip.Statement (.bfe d a b) :=
  roundTrip_one rfl (by simp [isTwoWord]) (by simp [decodeWord, decodeInt])
theorem RoundTrip.bfi (d a b : Byte) : RoundTrip.Statement (.bfi d a b) :=
  roundTrip_one rfl (by simp [isTwoWord]) (by simp [decodeWord, decodeInt])
theorem RoundTrip.popc (d a b : Byte) : RoundTrip.Statement (.popc d a b) :=
  roundTrip_one rfl (by simp [isTwoWord]) (by simp [decodeWord, decodeInt2])
theorem RoundTrip.clz (d a b : Byte) : RoundTrip.Statement (.clz d a b) :=
  roundTrip_one rfl (by simp [isTwoWord]) (by simp [decodeWord, decodeInt2])
theorem RoundTrip.brev (d a b : Byte) : RoundTrip.Statement (.brev d a b) :=
  roundTrip_one rfl (by simp [isTwoWord]) (by simp [decodeWord, decodeInt2])
theorem RoundTrip.sel (d a b : Byte) : RoundTrip.Statement (.sel d a b) :=
  roundTrip_one rfl (by simp [isTwoWord]) (by simp [decodeWord, decodeInt2])
theorem RoundTrip.cmp (d a b : Byte) : RoundTrip.Statement (.cmp d a b) :=
  roundTrip_one rfl (by simp [isTwoWord]) (by simp [decodeWord, decodeInt2])
theorem RoundTrip.addi (d a b : Byte) : RoundTrip.Statement (.addi d a b) :=
  roundTrip_one rfl (by simp [isTwoWord]) (by simp [decodeWord, decodeInt2])
theorem RoundTrip.shli (d a b : Byte) : RoundTrip.Statement (.shli d a b) :=
  roundTrip_one rfl (by simp [isTwoWord]) (by simp [decodeWord, decodeInt2])
theorem RoundTrip.shri (d a b : Byte) : RoundTrip.Statement (.shri d a b) :=
  roundTrip_one rfl (by simp [isTwoWord]) (by simp [decodeWord, decodeInt2])
theorem RoundTrip.sari (d a b : Byte) : RoundTrip.Statement (.sari d a b) :=
  roundTrip_one rfl (by simp [isTwoWord]) (by simp [decodeWord, decodeInt2])
theorem RoundTrip.mov (d a b : Byte) : RoundTrip.Statement (.mov d a b) :=
  roundTrip_one rfl (by simp [isTwoWord]) (by simp [decodeWord, decodeInt2])
theorem RoundTrip.movi (d a b : Byte) : RoundTrip.Statement (.movi d a b) :=
  roundTrip_one rfl (by simp [isTwoWord]) (by simp [decodeWord, decodeInt2])
theorem RoundTrip.movh (d a b : Byte) : RoundTrip.Statement (.movh d a b) :=
  roundTrip_one rfl (by simp [isTwoWord]) (by simp [decodeWord, decodeInt2])
theorem RoundTrip.lit (d a b : Byte) (l : Word) : RoundTrip.Statement (.lit d a b l) :=
  roundTrip_two rfl (by simp [isTwoWord]) (by simp [decodeWord, decodeInt2])
theorem RoundTrip.lea (d a b : Byte) : RoundTrip.Statement (.lea d a b) :=
  roundTrip_one rfl (by simp [isTwoWord]) (by simp [decodeWord, decodeInt2])
theorem RoundTrip.addx (d a b : Byte) : RoundTrip.Statement (.addx d a b) :=
  roundTrip_one rfl (by simp [isTwoWord]) (by simp [decodeWord, decodeInt2])
theorem RoundTrip.fadd (d a b : Byte) : RoundTrip.Statement (.fadd d a b) :=
  roundTrip_one rfl (by simp [isTwoWord]) (by simp [decodeWord, decodeFloat])
theorem RoundTrip.fsub (d a b : Byte) : RoundTrip.Statement (.fsub d a b) :=
  roundTrip_one rfl (by simp [isTwoWord]) (by simp [decodeWord, decodeFloat])
theorem RoundTrip.fmul (d a b : Byte) : RoundTrip.Statement (.fmul d a b) :=
  roundTrip_one rfl (by simp [isTwoWord]) (by simp [decodeWord, decodeFloat])
theorem RoundTrip.fma (d a b : Byte) : RoundTrip.Statement (.fma d a b) :=
  roundTrip_one rfl (by simp [isTwoWord]) (by simp [decodeWord, decodeFloat])
theorem RoundTrip.fnma (d a b : Byte) : RoundTrip.Statement (.fnma d a b) :=
  roundTrip_one rfl (by simp [isTwoWord]) (by simp [decodeWord, decodeFloat])
theorem RoundTrip.fmin (d a b : Byte) : RoundTrip.Statement (.fmin d a b) :=
  roundTrip_one rfl (by simp [isTwoWord]) (by simp [decodeWord, decodeFloat])
theorem RoundTrip.fmax (d a b : Byte) : RoundTrip.Statement (.fmax d a b) :=
  roundTrip_one rfl (by simp [isTwoWord]) (by simp [decodeWord, decodeFloat])
theorem RoundTrip.fcmp (d a b : Byte) : RoundTrip.Statement (.fcmp d a b) :=
  roundTrip_one rfl (by simp [isTwoWord]) (by simp [decodeWord, decodeFloat])
theorem RoundTrip.rsq (d a b : Byte) : RoundTrip.Statement (.rsq d a b) :=
  roundTrip_one rfl (by simp [isTwoWord]) (by simp [decodeWord, decodeFloat])
theorem RoundTrip.rcp (d a b : Byte) : RoundTrip.Statement (.rcp d a b) :=
  roundTrip_one rfl (by simp [isTwoWord]) (by simp [decodeWord, decodeFloat])
theorem RoundTrip.ex2 (d a b : Byte) : RoundTrip.Statement (.ex2 d a b) :=
  roundTrip_one rfl (by simp [isTwoWord]) (by simp [decodeWord, decodeFloat])
theorem RoundTrip.lg2 (d a b : Byte) : RoundTrip.Statement (.lg2 d a b) :=
  roundTrip_one rfl (by simp [isTwoWord]) (by simp [decodeWord, decodeFloat])
theorem RoundTrip.frnd (d a b : Byte) : RoundTrip.Statement (.frnd d a b) :=
  roundTrip_one rfl (by simp [isTwoWord]) (by simp [decodeWord, decodeFloat])
theorem RoundTrip.fcls (d a b : Byte) : RoundTrip.Statement (.fcls d a b) :=
  roundTrip_one rfl (by simp [isTwoWord]) (by simp [decodeWord, decodeFloat])
theorem RoundTrip.cvt (d a b : Byte) : RoundTrip.Statement (.cvt d a b) :=
  roundTrip_one rfl (by simp [isTwoWord]) (by simp [decodeWord, decodeFloat])
theorem RoundTrip.cvtn (d a b : Byte) : RoundTrip.Statement (.cvtn d a b) :=
  roundTrip_one rfl (by simp [isTwoWord]) (by simp [decodeWord, decodeFloat])
theorem RoundTrip.cvtw (d a b : Byte) : RoundTrip.Statement (.cvtw d a b) :=
  roundTrip_one rfl (by simp [isTwoWord]) (by simp [decodeWord, decodeSeq])
theorem RoundTrip.twos (d a b : Byte) : RoundTrip.Statement (.twos d a b) :=
  roundTrip_one rfl (by simp [isTwoWord]) (by simp [decodeWord, decodeSeq])
theorem RoundTrip.sadd (d a b : Byte) : RoundTrip.Statement (.sadd d a b) :=
  roundTrip_one rfl (by simp [isTwoWord]) (by simp [decodeWord, decodeSeq])
theorem RoundTrip.ssub (d a b : Byte) : RoundTrip.Statement (.ssub d a b) :=
  roundTrip_one rfl (by simp [isTwoWord]) (by simp [decodeWord, decodeSeq])
theorem RoundTrip.smul (d a b : Byte) : RoundTrip.Statement (.smul d a b) :=
  roundTrip_one rfl (by simp [isTwoWord]) (by simp [decodeWord, decodeSeq])
theorem RoundTrip.sand (d a b : Byte) : RoundTrip.Statement (.sand d a b) :=
  roundTrip_one rfl (by simp [isTwoWord]) (by simp [decodeWord, decodeSeq])
theorem RoundTrip.sor (d a b : Byte) : RoundTrip.Statement (.sor d a b) :=
  roundTrip_one rfl (by simp [isTwoWord]) (by simp [decodeWord, decodeSeq])
theorem RoundTrip.sxor (d a b : Byte) : RoundTrip.Statement (.sxor d a b) :=
  roundTrip_one rfl (by simp [isTwoWord]) (by simp [decodeWord, decodeSeq])
theorem RoundTrip.sshl (d a b : Byte) : RoundTrip.Statement (.sshl d a b) :=
  roundTrip_one rfl (by simp [isTwoWord]) (by simp [decodeWord, decodeSeq])
theorem RoundTrip.sshr (d a b : Byte) : RoundTrip.Statement (.sshr d a b) :=
  roundTrip_one rfl (by simp [isTwoWord]) (by simp [decodeWord, decodeSeq])
theorem RoundTrip.scmp (d a b : Byte) : RoundTrip.Statement (.scmp d a b) :=
  roundTrip_one rfl (by simp [isTwoWord]) (by simp [decodeWord, decodeSeq])
theorem RoundTrip.smov (d a b : Byte) : RoundTrip.Statement (.smov d a b) :=
  roundTrip_one rfl (by simp [isTwoWord]) (by simp [decodeWord, decodeSeq])
theorem RoundTrip.smovi (d a b : Byte) : RoundTrip.Statement (.smovi d a b) :=
  roundTrip_one rfl (by simp [isTwoWord]) (by simp [decodeWord, decodeSeq])
theorem RoundTrip.slit (d a b : Byte) (l : Word) : RoundTrip.Statement (.slit d a b l) :=
  roundTrip_two rfl (by simp [isTwoWord]) (by simp [decodeWord, decodeSeq])
theorem RoundTrip.saddx (d a b : Byte) : RoundTrip.Statement (.saddx d a b) :=
  roundTrip_one rfl (by simp [isTwoWord]) (by simp [decodeWord, decodeSeq])
theorem RoundTrip.sld (d a b : Byte) : RoundTrip.Statement (.sld d a b) :=
  roundTrip_one rfl (by simp [isTwoWord]) (by simp [decodeWord, decodeSeq])
theorem RoundTrip.sst (d a b : Byte) : RoundTrip.Statement (.sst d a b) :=
  roundTrip_one rfl (by simp [isTwoWord]) (by simp [decodeWord, decodeSeq])
theorem RoundTrip.bcast (d a b : Byte) : RoundTrip.Statement (.bcast d a b) :=
  roundTrip_one rfl (by simp [isTwoWord]) (by simp [decodeWord, decodeSeq])
theorem RoundTrip.rdln (d a b : Byte) : RoundTrip.Statement (.rdln d a b) :=
  roundTrip_one rfl (by simp [isTwoWord]) (by simp [decodeWord, decodeSeq])
theorem RoundTrip.qswz (d a b : Byte) : RoundTrip.Statement (.qswz d a b) :=
  roundTrip_one rfl (by simp [isTwoWord]) (by simp [decodeWord, decodeMem])
theorem RoundTrip.shfl (d a b : Byte) : RoundTrip.Statement (.shfl d a b) :=
  roundTrip_one rfl (by simp [isTwoWord]) (by simp [decodeWord, decodeMem])
theorem RoundTrip.shfx (d a b : Byte) : RoundTrip.Statement (.shfx d a b) :=
  roundTrip_one rfl (by simp [isTwoWord]) (by simp [decodeWord, decodeMem])
theorem RoundTrip.shup (d a b : Byte) : RoundTrip.Statement (.shup d a b) :=
  roundTrip_one rfl (by simp [isTwoWord]) (by simp [decodeWord, decodeMem])
theorem RoundTrip.vote (d a b : Byte) : RoundTrip.Statement (.vote d a b) :=
  roundTrip_one rfl (by simp [isTwoWord]) (by simp [decodeWord, decodeMem])
theorem RoundTrip.vtst (d a b : Byte) : RoundTrip.Statement (.vtst d a b) :=
  roundTrip_one rfl (by simp [isTwoWord]) (by simp [decodeWord, decodeMem])
theorem RoundTrip.ld (d a b : Byte) : RoundTrip.Statement (.ld d a b) :=
  roundTrip_one rfl (by simp [isTwoWord]) (by simp [decodeWord, decodeMem])
theorem RoundTrip.ldx (d a b : Byte) : RoundTrip.Statement (.ldx d a b) :=
  roundTrip_one rfl (by simp [isTwoWord]) (by simp [decodeWord, decodeMem])
theorem RoundTrip.st (d a b : Byte) : RoundTrip.Statement (.st d a b) :=
  roundTrip_one rfl (by simp [isTwoWord]) (by simp [decodeWord, decodeMem])
theorem RoundTrip.stx (d a b : Byte) : RoundTrip.Statement (.stx d a b) :=
  roundTrip_one rfl (by simp [isTwoWord]) (by simp [decodeWord, decodeMem])
theorem RoundTrip.ldp (d a b : Byte) : RoundTrip.Statement (.ldp d a b) :=
  roundTrip_one rfl (by simp [isTwoWord]) (by simp [decodeWord, decodeMem])
theorem RoundTrip.stp (d a b : Byte) : RoundTrip.Statement (.stp d a b) :=
  roundTrip_one rfl (by simp [isTwoWord]) (by simp [decodeWord, decodeMem])
theorem RoundTrip.ldv (d a b : Byte) : RoundTrip.Statement (.ldv d a b) :=
  roundTrip_one rfl (by simp [isTwoWord]) (by simp [decodeWord, decodeMem])
theorem RoundTrip.pref (d a b : Byte) : RoundTrip.Statement (.pref d a b) :=
  roundTrip_one rfl (by simp [isTwoWord]) (by simp [decodeWord, decodeMem])
theorem RoundTrip.fence (d a b : Byte) : RoundTrip.Statement (.fence d a b) :=
  roundTrip_one rfl (by simp [isTwoWord]) (by simp [decodeWord, decodeMem])
theorem RoundTrip.aadd (d a b : Byte) : RoundTrip.Statement (.aadd d a b) :=
  roundTrip_one rfl (by simp [isTwoWord]) (by simp [decodeWord, decodeAtomic])
theorem RoundTrip.amin (d a b : Byte) : RoundTrip.Statement (.amin d a b) :=
  roundTrip_one rfl (by simp [isTwoWord]) (by simp [decodeWord, decodeAtomic])
theorem RoundTrip.amax (d a b : Byte) : RoundTrip.Statement (.amax d a b) :=
  roundTrip_one rfl (by simp [isTwoWord]) (by simp [decodeWord, decodeAtomic])
theorem RoundTrip.aand (d a b : Byte) : RoundTrip.Statement (.aand d a b) :=
  roundTrip_one rfl (by simp [isTwoWord]) (by simp [decodeWord, decodeAtomic])
theorem RoundTrip.aor (d a b : Byte) : RoundTrip.Statement (.aor d a b) :=
  roundTrip_one rfl (by simp [isTwoWord]) (by simp [decodeWord, decodeAtomic])
theorem RoundTrip.axor (d a b : Byte) : RoundTrip.Statement (.axor d a b) :=
  roundTrip_one rfl (by simp [isTwoWord]) (by simp [decodeWord, decodeAtomic])
theorem RoundTrip.axch (d a b : Byte) : RoundTrip.Statement (.axch d a b) :=
  roundTrip_one rfl (by simp [isTwoWord]) (by simp [decodeWord, decodeAtomic])
theorem RoundTrip.acas (d a b : Byte) : RoundTrip.Statement (.acas d a b) :=
  roundTrip_one rfl (by simp [isTwoWord]) (by simp [decodeWord, decodeAtomic])
theorem RoundTrip.afadd (d a b : Byte) : RoundTrip.Statement (.afadd d a b) :=
  roundTrip_one rfl (by simp [isTwoWord]) (by simp [decodeWord, decodeAtomic])
theorem RoundTrip.redc (d a b : Byte) : RoundTrip.Statement (.redc d a b) :=
  roundTrip_one rfl (by simp [isTwoWord]) (by simp [decodeWord, decodeAtomic])
theorem RoundTrip.cprd (d a b : Byte) : RoundTrip.Statement (.cprd d a b) :=
  roundTrip_one rfl (by simp [isTwoWord]) (by simp [decodeWord, decodeAtomic])
theorem RoundTrip.redx (d a b : Byte) : RoundTrip.Statement (.redx d a b) :=
  roundTrip_one rfl (by simp [isTwoWord]) (by simp [decodeWord, decodeAtomic])
theorem RoundTrip.bar (d a b : Byte) : RoundTrip.Statement (.bar d a b) :=
  roundTrip_one rfl (by simp [isTwoWord]) (by simp [decodeWord, decodeSync])
theorem RoundTrip.gbar (d a b : Byte) : RoundTrip.Statement (.gbar d a b) :=
  roundTrip_one rfl (by simp [isTwoWord]) (by simp [decodeWord, decodeSync])
theorem RoundTrip.waita (d a b : Byte) : RoundTrip.Statement (.waita d a b) :=
  roundTrip_one rfl (by simp [isTwoWord]) (by simp [decodeWord, decodeSync])
theorem RoundTrip.qdef (d a b : Byte) : RoundTrip.Statement (.qdef d a b) :=
  roundTrip_one rfl (by simp [isTwoWord]) (by simp [decodeWord, decodeSync])
theorem RoundTrip.push (d a b : Byte) : RoundTrip.Statement (.push d a b) :=
  roundTrip_one rfl (by simp [isTwoWord]) (by simp [decodeWord, decodeSync])
theorem RoundTrip.pop (d a b : Byte) : RoundTrip.Statement (.pop d a b) :=
  roundTrip_one rfl (by simp [isTwoWord]) (by simp [decodeWord, decodeSync])
theorem RoundTrip.pushn (d a b : Byte) : RoundTrip.Statement (.pushn d a b) :=
  roundTrip_one rfl (by simp [isTwoWord]) (by simp [decodeWord, decodeSync])
theorem RoundTrip.popn (d a b : Byte) : RoundTrip.Statement (.popn d a b) :=
  roundTrip_one rfl (by simp [isTwoWord]) (by simp [decodeWord, decodeSync])
theorem RoundTrip.gres (d a b : Byte) : RoundTrip.Statement (.gres d a b) :=
  roundTrip_one rfl (by simp [isTwoWord]) (by simp [decodeWord, decodeSync])
theorem RoundTrip.copy (d a b : Byte) : RoundTrip.Statement (.copy d a b) :=
  roundTrip_one rfl (by simp [isTwoWord]) (by simp [decodeWord, decodeEngine])
theorem RoundTrip.chase (d a b : Byte) : RoundTrip.Statement (.chase d a b) :=
  roundTrip_one rfl (by simp [isTwoWord]) (by simp [decodeWord, decodeEngine])
theorem RoundTrip.chdef (d a b : Byte) : RoundTrip.Statement (.chdef d a b) :=
  roundTrip_one rfl (by simp [isTwoWord]) (by simp [decodeWord, decodeEngine])
theorem RoundTrip.macq (d a b : Byte) : RoundTrip.Statement (.macq d a b) :=
  roundTrip_one rfl (by simp [isTwoWord]) (by simp [decodeWord, decodeEngine])
theorem RoundTrip.mrel (d a b : Byte) : RoundTrip.Statement (.mrel d a b) :=
  roundTrip_one rfl (by simp [isTwoWord]) (by simp [decodeWord, decodeEngine])
theorem RoundTrip.mshp (d a b : Byte) : RoundTrip.Statement (.mshp d a b) :=
  roundTrip_one rfl (by simp [isTwoWord]) (by simp [decodeWord, decodeEngine])
theorem RoundTrip.mma (d a b : Byte) : RoundTrip.Statement (.mma d a b) :=
  roundTrip_one rfl (by simp [isTwoWord]) (by simp [decodeWord, decodeEngine])
theorem RoundTrip.mzero (d a b : Byte) : RoundTrip.Statement (.mzero d a b) :=
  roundTrip_one rfl (by simp [isTwoWord]) (by simp [decodeWord, decodeEngine])
theorem RoundTrip.mrd (d a b : Byte) : RoundTrip.Statement (.mrd d a b) :=
  roundTrip_one rfl (by simp [isTwoWord]) (by simp [decodeWord, decodeEngine])
theorem RoundTrip.mwr (d a b : Byte) : RoundTrip.Statement (.mwr d a b) :=
  roundTrip_one rfl (by simp [isTwoWord]) (by simp [decodeWord, decodeEngine])
theorem RoundTrip.amsg (d a b : Byte) : RoundTrip.Statement (.amsg d a b) :=
  roundTrip_one rfl (by simp [isTwoWord]) (by simp [decodeWord, decodeNet])
theorem RoundTrip.slk (d a b : Byte) : RoundTrip.Statement (.slk d a b) :=
  roundTrip_one rfl (by simp [isTwoWord]) (by simp [decodeWord, decodeNet])
theorem RoundTrip.circ (d a b : Byte) : RoundTrip.Statement (.circ d a b) :=
  roundTrip_one rfl (by simp [isTwoWord]) (by simp [decodeWord, decodeNet])
theorem RoundTrip.crel (d a b : Byte) : RoundTrip.Statement (.crel d a b) :=
  roundTrip_one rfl (by simp [isTwoWord]) (by simp [decodeWord, decodeNet])
theorem RoundTrip.snap (d a b : Byte) : RoundTrip.Statement (.snap d a b) :=
  roundTrip_one rfl (by simp [isTwoWord]) (by simp [decodeWord, decodeNet])
theorem RoundTrip.genq (d a b : Byte) : RoundTrip.Statement (.genq d a b) :=
  roundTrip_one rfl (by simp [isTwoWord]) (by simp [decodeWord, decodeNet])
theorem RoundTrip.grel (d a b : Byte) : RoundTrip.Statement (.grel d a b) :=
  roundTrip_one rfl (by simp [isTwoWord]) (by simp [decodeWord, decodeNet])

theorem of_flow (n : Nat) (d a b : Byte) (l w : Word) (h : (Table.row n).isNone = true) :
    decodeFlow n d a b l w = .unassignedOpcode w := by
  unfold decodeFlow
  split <;> first | rfl | exact absurd h (by decide)

theorem of_mode (n : Nat) (d a b : Byte) (l w : Word) (h : (Table.row n).isNone = true) :
    decodeMode n d a b l w = .unassignedOpcode w := by
  unfold decodeMode
  split <;> first | rfl | exact absurd h (by decide)

theorem of_int (n : Nat) (d a b : Byte) (l w : Word) (h : (Table.row n).isNone = true) :
    decodeInt n d a b l w = .unassignedOpcode w := by
  unfold decodeInt
  split <;> first | rfl | exact absurd h (by decide)

theorem of_int2 (n : Nat) (d a b : Byte) (l w : Word) (h : (Table.row n).isNone = true) :
    decodeInt2 n d a b l w = .unassignedOpcode w := by
  unfold decodeInt2
  split <;> first | rfl | exact absurd h (by decide)

theorem of_float (n : Nat) (d a b : Byte) (l w : Word) (h : (Table.row n).isNone = true) :
    decodeFloat n d a b l w = .unassignedOpcode w := by
  unfold decodeFloat
  split <;> first | rfl | exact absurd h (by decide)

theorem of_seq (n : Nat) (d a b : Byte) (l w : Word) (h : (Table.row n).isNone = true) :
    decodeSeq n d a b l w = .unassignedOpcode w := by
  unfold decodeSeq
  split <;> first | rfl | exact absurd h (by decide)

theorem of_mem (n : Nat) (d a b : Byte) (l w : Word) (h : (Table.row n).isNone = true) :
    decodeMem n d a b l w = .unassignedOpcode w := by
  unfold decodeMem
  split <;> first | rfl | exact absurd h (by decide)

theorem of_atomic (n : Nat) (d a b : Byte) (l w : Word) (h : (Table.row n).isNone = true) :
    decodeAtomic n d a b l w = .unassignedOpcode w := by
  unfold decodeAtomic
  split <;> first | rfl | exact absurd h (by decide)

theorem of_sync (n : Nat) (d a b : Byte) (l w : Word) (h : (Table.row n).isNone = true) :
    decodeSync n d a b l w = .unassignedOpcode w := by
  unfold decodeSync
  split <;> first | rfl | exact absurd h (by decide)

theorem of_engine (n : Nat) (d a b : Byte) (l w : Word) (h : (Table.row n).isNone = true) :
    decodeEngine n d a b l w = .unassignedOpcode w := by
  unfold decodeEngine
  split <;> first | rfl | exact absurd h (by decide)

theorem of_net (n : Nat) (d a b : Byte) (l w : Word) (h : (Table.row n).isNone = true) :
    decodeNet n d a b l w = .unassignedOpcode w := by
  unfold decodeNet
  split <;> first | rfl | exact absurd h (by decide)

/-- A word of an unassigned opcode is read as itself. -/
theorem decodeWord_unassigned (w : Word) (h : (Table.row (w.extractLsb' 24 8).toNat).isNone = true) :
    isTwoWord (opcodeOf w) = false ∧ decodeWord w 0 = .unassignedOpcode w := by
  refine ⟨?_, ?_⟩
  · cases ht : isTwoWord (opcodeOf w) with
    | false => rfl
    | true =>
      exfalso
      change (Table.row (opcodeOf w).toNat).isNone = true at h
      simp only [isTwoWord, Bool.or_eq_true, beq_iff_eq] at ht
      rcases ht with (((((ht | ht) | ht) | ht) | ht) | ht) | ht <;> rw [ht] at h <;> revert h <;> decide
  · change (Table.row (opcodeOf w).toNat).isNone = true at h
    simp only [decodeWord]
    generalize (opcodeOf w).toNat = n at h ⊢
    repeat' split
    · exact of_flow n _ _ _ _ _ h
    · exact of_mode n _ _ _ _ _ h
    · exact of_int n _ _ _ _ _ h
    · exact of_int2 n _ _ _ _ _ h
    · exact of_float n _ _ _ _ _ h
    · exact of_seq n _ _ _ _ _ h
    · exact of_mem n _ _ _ _ _ h
    · exact of_atomic n _ _ _ _ _ h
    · exact of_sync n _ _ _ _ _ h
    · exact of_engine n _ _ _ _ _ h
    · exact of_net n _ _ _ _ _ h

theorem RoundTrip.unassignedOpcode (w : Word) : RoundTrip.Statement (.unassignedOpcode w) := by
  intro ws rest hw h'
  have := decodeWord_unassigned w hw
  exact roundTrip_one (w := w) rfl this.1 (fun _ => this.2) ws rest hw h'
theorem RoundTrip.fetchLine (g e : Nat) : RoundTrip.Statement (.fetchLine g e) := roundTrip_none rfl
theorem RoundTrip.jetGrant (p core : Nat) : RoundTrip.Statement (.jetGrant p core) := roundTrip_none rfl
theorem RoundTrip.resultReturn (g id : Nat) : RoundTrip.Statement (.resultReturn g id) := roundTrip_none rfl
theorem RoundTrip.storeQueueDeparture (g : Nat) : RoundTrip.Statement (.storeQueueDeparture g) := roundTrip_none rfl
theorem RoundTrip.sliceApply (slice : Nat) : RoundTrip.Statement (.sliceApply slice) := roundTrip_none rfl
theorem RoundTrip.acknowledgement (id : Nat) : RoundTrip.Statement (.acknowledgement id) := roundTrip_none rfl
theorem RoundTrip.arbitration (pt : ArbPoint) (merge : Bool) : RoundTrip.Statement (.arbitration pt merge) := roundTrip_none rfl
theorem RoundTrip.transitWindow : RoundTrip.Statement (.transitWindow ) := roundTrip_none rfl
theorem RoundTrip.circuitIdleEnd (wg n : Nat) : RoundTrip.Statement (.circuitIdleEnd wg n) := roundTrip_none rfl
theorem RoundTrip.pageWalk (g : Nat) (page : Nat) : RoundTrip.Statement (.pageWalk g page) := roundTrip_none rfl
theorem RoundTrip.clusterMove (p c : Nat) : RoundTrip.Statement (.clusterMove p c) := roundTrip_none rfl
theorem RoundTrip.registerGrowth (g e : Nat) : RoundTrip.Statement (.registerGrowth g e) := roundTrip_none rfl
theorem RoundTrip.rgrowFailure (p core : Nat) : RoundTrip.Statement (.rgrowFailure p core) := roundTrip_none rfl
theorem RoundTrip.waitaRead (g e : Nat) : RoundTrip.Statement (.waitaRead g e) := roundTrip_none rfl
theorem RoundTrip.copyCommandStart (p core : Nat) : RoundTrip.Statement (.copyCommandStart p core) := roundTrip_none rfl
theorem RoundTrip.copySector (wg id k : Nat) : RoundTrip.Statement (.copySector wg id k) := roundTrip_none rfl
theorem RoundTrip.chaseHop (g id : Nat) : RoundTrip.Statement (.chaseHop g id) := roundTrip_none rfl
theorem RoundTrip.matrixAllocator (p core : Nat) : RoundTrip.Statement (.matrixAllocator p core) := roundTrip_none rfl
theorem RoundTrip.mmaStep (p core : Nat) : RoundTrip.Statement (.mmaStep p core) := roundTrip_none rfl
theorem RoundTrip.messagePost (p off : Nat) (bytes : List Byte) : RoundTrip.Statement (.messagePost p off bytes) := roundTrip_none rfl
theorem RoundTrip.messageWindowRead (p off : Nat) : RoundTrip.Statement (.messageWindowRead p off) := roundTrip_none rfl
theorem RoundTrip.launchHandlerSpawn (p : Nat) : RoundTrip.Statement (.launchHandlerSpawn p) := roundTrip_none rfl
theorem RoundTrip.messageArrival (p : Nat) (m : Msg) : RoundTrip.Statement (.messageArrival p m) := roundTrip_none rfl
theorem RoundTrip.messageHandlerSpawn (p : Nat) : RoundTrip.Statement (.messageHandlerSpawn p) := roundTrip_none rfl
theorem RoundTrip.dependencyRead (p e k : Nat) : RoundTrip.Statement (.dependencyRead p e k) := roundTrip_none rfl
theorem RoundTrip.gangPlacement (p : Nat) : RoundTrip.Statement (.gangPlacement p) := roundTrip_none rfl
theorem RoundTrip.passedOverLimit (p e : Nat) : RoundTrip.Statement (.passedOverLimit p e) := roundTrip_none rfl
theorem RoundTrip.workgroupRetirement (wg : Nat) : RoundTrip.Statement (.workgroupRetirement wg) := roundTrip_none rfl
theorem RoundTrip.peerLoss (p peer : Nat) : RoundTrip.Statement (.peerLoss p peer) := roundTrip_none rfl
theorem RoundTrip.replicaForward (p set addr : Nat) (bytes : List Byte) : RoundTrip.Statement (.replicaForward p set addr bytes) := roundTrip_none rfl
theorem RoundTrip.replicaLoss (p set : Nat) : RoundTrip.Statement (.replicaLoss p set) := roundTrip_none rfl
theorem RoundTrip.preEmption (p : Nat) (clusters : List Nat) : RoundTrip.Statement (.preEmption p clusters) := roundTrip_none rfl
theorem RoundTrip.granuleClaim (p : Nat) (gr : Granule) : RoundTrip.Statement (.granuleClaim p gr) := roundTrip_none rfl
theorem RoundTrip.contextResume (p c : Nat) : RoundTrip.Statement (.contextResume p c) := roundTrip_none rfl
theorem RoundTrip.restart (g : Nat) : RoundTrip.Statement (.restart g) := roundTrip_none rfl
theorem RoundTrip.scanDrain : RoundTrip.Statement (.scanDrain ) := roundTrip_none rfl
theorem RoundTrip.scan (core : Nat) : RoundTrip.Statement (.scan core) := roundTrip_none rfl
theorem RoundTrip.scanCompletion (core : Nat) (pass : Bool) : RoundTrip.Statement (.scanCompletion core pass) := roundTrip_none rfl
theorem RoundTrip.cut (p : Nat) : RoundTrip.Statement (.cut p) := roundTrip_none rfl
theorem RoundTrip.backgroundCopier (p blk sector : Nat) : RoundTrip.Statement (.backgroundCopier p blk sector) := roundTrip_none rfl
theorem RoundTrip.sluice (p : Nat) : RoundTrip.Statement (.sluice p) := roundTrip_none rfl
theorem RoundTrip.bandwidthInterval : RoundTrip.Statement (.bandwidthInterval ) := roundTrip_none rfl
theorem RoundTrip.memoryThermalStep (stack celsius : Nat) : RoundTrip.Statement (.memoryThermalStep stack celsius) := roundTrip_none rfl
theorem RoundTrip.powerCapStep (watts : Nat) : RoundTrip.Statement (.powerCapStep watts) := roundTrip_none rfl
theorem RoundTrip.droopDetection (cl : Nat) (sig : BitVec 24) : RoundTrip.Statement (.droopDetection cl sig) := roundTrip_none rfl
theorem RoundTrip.droopPrediction (cl : Nat) (sig : BitVec 24) : RoundTrip.Statement (.droopPrediction cl sig) := roundTrip_none rfl
theorem RoundTrip.confidenceDecay : RoundTrip.Statement (.confidenceDecay ) := roundTrip_none rfl
theorem RoundTrip.coreThermal (die celsius : Nat) : RoundTrip.Statement (.coreThermal die celsius) := roundTrip_none rfl
theorem RoundTrip.railLimit (r amps : Nat) : RoundTrip.Statement (.railLimit r amps) := roundTrip_none rfl
theorem RoundTrip.railTrip (r amps : Nat) : RoundTrip.Statement (.railTrip r amps) := roundTrip_none rfl
theorem RoundTrip.hbmTrip (stack celsius : Nat) : RoundTrip.Statement (.hbmTrip stack celsius) := roundTrip_none rfl
theorem RoundTrip.overheat (stackC dieC : Nat) : RoundTrip.Statement (.overheat stackC dieC) := roundTrip_none rfl
theorem RoundTrip.partitionReset (p : Nat) : RoundTrip.Statement (.partitionReset p) := roundTrip_none rfl
theorem RoundTrip.partitionReload (p : Nat) (cfg : PartCfg) : RoundTrip.Statement (.partitionReload p cfg) := roundTrip_none rfl
theorem RoundTrip.invalcfgClear (p : Nat) (v : Word) : RoundTrip.Statement (.invalcfgClear p v) := roundTrip_none rfl
theorem RoundTrip.errstatClear (p : Nat) (v : Word) : RoundTrip.Statement (.errstatClear p v) := roundTrip_none rfl
theorem RoundTrip.errdropRead (p : Nat) : RoundTrip.Statement (.errdropRead p) := roundTrip_none rfl
theorem RoundTrip.energyloRead (p req : Nat) : RoundTrip.Statement (.energyloRead p req) := roundTrip_none rfl
theorem RoundTrip.energyhiRead (p req : Nat) : RoundTrip.Statement (.energyhiRead p req) := roundTrip_none rfl
theorem RoundTrip.railWrite (n : Nat) (v : Word) : RoundTrip.Statement (.railWrite n v) := roundTrip_none rfl
theorem RoundTrip.railSettled (n : Nat) : RoundTrip.Statement (.railSettled n) := roundTrip_none rfl
theorem RoundTrip.lnkctlWrite (n : Nat) (v : Word) : RoundTrip.Statement (.lnkctlWrite n v) := roundTrip_none rfl
theorem RoundTrip.registerWrite (p off : Nat) (v : DWord) : RoundTrip.Statement (.registerWrite p off v) := roundTrip_none rfl
theorem RoundTrip.linkPark (n : Nat) : RoundTrip.Statement (.linkPark n) := roundTrip_none rfl
theorem RoundTrip.linkWake (n : Nat) : RoundTrip.Statement (.linkWake n) := roundTrip_none rfl
theorem RoundTrip.wakeComplete (n : Nat) : RoundTrip.Statement (.wakeComplete n) := roundTrip_none rfl
theorem RoundTrip.ringLockStep : RoundTrip.Statement (.ringLockStep ) := roundTrip_none rfl
theorem RoundTrip.ringSaturation (fe ring : Nat) : RoundTrip.Statement (.ringSaturation fe ring) := roundTrip_none rfl
theorem RoundTrip.claim (who : Claimant) : RoundTrip.Statement (.claim who) := roundTrip_none rfl
theorem RoundTrip.release (who : Claimant) : RoundTrip.Statement (.release who) := roundTrip_none rfl
theorem RoundTrip.handover (who : Claimant) (heir : Nat) : RoundTrip.Statement (.handover who heir) := roundTrip_none rfl
theorem RoundTrip.gauge (who : Claimant) (n : Nat) : RoundTrip.Statement (.gauge who n) := roundTrip_none rfl
theorem RoundTrip.logread (who : Claimant) (seq : Nat) : RoundTrip.Statement (.logread who seq) := roundTrip_none rfl
theorem RoundTrip.quote (who : Claimant) (nonce : List Byte) : RoundTrip.Statement (.quote who nonce) := roundTrip_none rfl
theorem RoundTrip.imgwrite (who : Claimant) (off : Nat) (bytes : List Byte) : RoundTrip.Statement (.imgwrite who off bytes) := roundTrip_none rfl
theorem RoundTrip.activate (who : Claimant) : RoundTrip.Statement (.activate who) := roundTrip_none rfl
theorem RoundTrip.powercap (who : Claimant) (watts : Nat) : RoundTrip.Statement (.powercap who watts) := roundTrip_none rfl
theorem RoundTrip.clamp (who : Claimant) (mask : BitVec 12) (aper : Nat) : RoundTrip.Statement (.clamp who mask aper) := roundTrip_none rfl
theorem RoundTrip.railbound (who : Claimant) (rail aper : Nat) (amps : List Nat) : RoundTrip.Statement (.railbound who rail aper amps) := roundTrip_none rfl
theorem RoundTrip.ownershipLapse : RoundTrip.Statement (.ownershipLapse ) := roundTrip_none rfl
theorem RoundTrip.handoverExpiry : RoundTrip.Statement (.handoverExpiry ) := roundTrip_none rfl
theorem RoundTrip.observatoryBoot : RoundTrip.Statement (.observatoryBoot ) := roundTrip_none rfl
theorem RoundTrip.trialExpiry : RoundTrip.Statement (.trialExpiry ) := roundTrip_none rfl
theorem RoundTrip.moduleReset : RoundTrip.Statement (.moduleReset ) := roundTrip_none rfl
theorem RoundTrip.heartbeat : RoundTrip.Statement (.heartbeat ) := roundTrip_none rfl
theorem RoundTrip.imageConfirm : RoundTrip.Statement (.imageConfirm ) := roundTrip_none rfl
theorem RoundTrip.cancellation (p crec : Nat) : RoundTrip.Statement (.cancellation p crec) := roundTrip_none rfl
theorem RoundTrip.coreThermalRelease (die celsius : Nat) : RoundTrip.Statement (.coreThermalRelease die celsius) := roundTrip_none rfl
theorem RoundTrip.railLimitRelease (r amps : Nat) : RoundTrip.Statement (.railLimitRelease r amps) := roundTrip_none rfl
theorem RoundTrip.railTripRelease (r amps : Nat) : RoundTrip.Statement (.railTripRelease r amps) := roundTrip_none rfl
theorem RoundTrip.hbmTripRelease (stack celsius : Nat) : RoundTrip.Statement (.hbmTripRelease stack celsius) := roundTrip_none rfl

end Sys2Proof.Laws
end

