-- ==== Sys2Proof/Tests/Slice0.lean ====
section
/-!
SUPPORT. Tests: the field checks refuse an ill-formed term each, words written out from the encodings decode, states that
meet the hypotheses of the statements, and single instructions on a small state.
-/

namespace Sys2Proof.Tests
open Sys2Proof Sys2Proof.Machine

/-! ## A small machine -/

/-- A quad of three real lanes and one helper lane. -/
def quadT (q : Nat) (s : Cells Word) (m : Word) (v : Cells Word) : Quad :=
  { q := q, s := s, mode := m, alloc := 64, slice := 8 * q, lanes := [{ v := v, p := 3 }, { v := v, p := 1 }, { p := 1 }, { helper := true }] }

/-- The split that issues: two quads, every lane active. -/
def splitT : Split := { valid := true, qmask := 3, st := .issuing, pc := 16, act := 0xFF }

def groupT (quads : List Quad) : Group := { quads := quads, splits := splitT :: List.replicate 8 {} }

/-- A machine whose partition 0 runs one group of one workgroup, whose split 0 issues. -/
def world (gr : Group) (w : Workgroup := {}) (k : Gang := {}) (p : Partition := {}) : State :=
  { State.reset with
    cur := some (0, 0), groups := [gr]
    wgs := [{ w with groups := [0], aper := 1, wgsz := 7, guards := [2, 2] }]
    gangs := [{ k with p := 4096, wgs := [0] }]
    grids := [{ wgs := 1, placed := 1, recd := { regs := 64, pool := 4096 } }]
    tlb := [⟨0, 0, 0, { large := true, user := true, write := true }⟩]
    -- root in frame 0, its table in frame 1, a large page of frames 0 to 4095; frames 0 to 7 owned (bitmap at 0x20000)
    hbm := [(0, 1), (2, 1), (0x10000, 15), (0x20000, 0xFF)]
    parts := { p with cfg := some { hvec := [(0x1000, 0x55)], clmap := 0 :: List.replicate 11 255, hbmq := 0x20000
                                    ctxBase := 0x30000, chdefGrant := true, share := 1
                                    railAmps := [1875, 1875, 1875, 1875] } } :: List.replicate 11 {} }

def quadsT (m : Word) : List Quad := [quadT 0 [(2, 5), (3, 7)] m [(1, 6), (2, 3)], quadT 1 [(2, 9)] m [(1, 8)]]

/-- The small machine with mode word m in both quads. -/
def w0 (m : Word) : State := world (groupT (quadsT m))

/-- Clear as a Boolean. -/
def clearB (s : State) (g e op d a b : Nat) : Bool :=
  let gr := groupAt s g
  let sp := splitAt gr e
  let r := (Table.row op).getD {}
  s.cur == some (g, e) && sp.valid && sp.act != 0 && sp.marked.isEmpty && !privBad s g e op r && Table.fieldsOk r d a b &&
  (op != 0x9B || !redxBad gr d (takers s g e op a)) && queueCheck s g op d a b == 0 && (actingQuads s g e).all (fun k => quadCheck gr op d a b r k == 0) &&
  (sp.park.isSome || !anyPending s g op d a b r (actingQuads s g e)) && (decide (op < 0x20) || decide (0x51 < op) || !gr.residue) &&
  decide (meet s g op d a b (actingQuads s g e) (activeLanes s g e) (actingLanes s g e op a) = .clean)

theorem clear_of_clearB {s : State} {g e op d a b : Nat} (h : clearB s g e op d a b = true) : Clear s g e op d a b := by
  simp only [clearB, Bool.and_eq_true, Bool.or_eq_true, beq_iff_eq, bne_iff_ne, ne_eq, Bool.not_eq_true', decide_eq_true_eq,
    List.all_eq_true, List.isEmpty_iff] at h
  obtain ⟨⟨⟨⟨⟨⟨⟨⟨⟨⟨⟨h1, h2⟩, h3⟩, h4⟩, h5⟩, h6⟩, h7⟩, hq⟩, h8⟩, h9⟩, h10⟩, h11⟩ := h
  exact ⟨h1, h2, h3, h4, h5, h6, fun h => h7.resolve_left (fun n => n h), hq, h8, h9,
    fun x y => by rcases h10 with (h | h) | h <;> omega, h11⟩

/-- A group whose splits but the first may not meet another. -/
theorem alone0 (gr : Group) (h : (gr.splits.drop 1).all (fun sp => !mayMeet sp) = true) : StandsAlone gr 0 := by
  intro j hj
  by_cases hl : j < gr.splits.length
  · have := List.all_eq_true.1 h (gr.splits[j]) (by
      rw [List.mem_drop_iff_getElem]; exact ⟨j - 1, by omega, by congr 1; omega⟩)
    simpa [splitAt, nth, hl] using this
  · simp [splitAt, nth, hl, mayMeet]

/-- Every instruction of a list of opcodes and operands is clear in a state. -/
def allClear (s : State) (l : List (Nat × Nat × Nat × Nat)) : Bool := l.all fun x => clearB s 0 0 x.1 x.2.1 x.2.2.1 x.2.2.2

theorem clears {s : State} {l : List (Nat × Nat × Nat × Nat)} (h : allClear s l = true) :
    ∀ x ∈ l, Clear s 0 0 x.1 x.2.1 x.2.2.1 x.2.2.2 :=
  fun x hx => clear_of_clearB (List.all_eq_true.mp h x hx)

/-! ## States that meet the hypotheses of the statements -/

theorem witness_LaneArithmeticFits : ∀ x ∈ [(0x20, 63, 1, 2), (0x21, 3, 1, 2), (0x22, 3, 1, 2), (0x23, 3, 1, 2), (0x24, 0, 1, 2),
    (0x25, 3, 1, 2), (0x26, 3, 1, 63), (0x35, 3, 1, 0x80)], Clear (w0 0) 0 0 x.1 x.2.1 x.2.2.1 x.2.2.2 := clears (by decide)

theorem witness_LogicAndCopies : ∀ x ∈ [(0x27, 63, 1, 2), (0x28, 3, 1, 2), (0x29, 0, 1, 2), (0x2A, 3, 1, 2), (0x39, 3, 1, 0)],
    Clear (w0 0) 0 0 x.1 x.2.1 x.2.2.1 x.2.2.2 := clears (by decide)
theorem witness_LogicAndCopies_pairs : ∀ x ∈ [(0x27, 62, 2, 4), (0x39, 0, 62, 0)],
    Clear (w0 (12 * 32)) 0 0 x.1 x.2.1 x.2.2.1 x.2.2.2 := clears (by decide)

theorem witness_SelectWritesEveryLane : Clear (w0 1) 0 0 0x33 63 1 2 := clear_of_clearB (by decide)

theorem witness_ShiftsAndBitFields : ∀ x ∈ [(0x2B, 3, 1, 2), (0x2C, 3, 1, 2), (0x2D, 3, 1, 2), (0x36, 3, 1, 63), (0x37, 3, 1, 0),
    (0x38, 3, 1, 63), (0x2E, 3, 1, 2), (0x2F, 3, 1, 2), (0x30, 3, 1, 0), (0x31, 3, 1, 0), (0x32, 3, 1, 0)],
    Clear (w0 0) 0 0 x.1 x.2.1 x.2.2.1 x.2.2.2 := clears (by decide)

theorem witness_ComparesWritePredicates : ∀ x ∈ [(0x34, 0x21, 1, 2), (0x34, 0xF0, 1, 2), (0x60, 0x0F, 2, 3), (0x60, 0xF0, 2, 63)],
    Clear (w0 0) 0 0 x.1 x.2.1 x.2.2.1 x.2.2.2 := clears (by decide)
theorem witness_ComparesWritePredicates_float : ∀ x ∈ [(0x47, 0xB2, 1, 2), (0x47, 0x00, 1, 2)],
    Clear (w0 (6 * 32)) 0 0 x.1 x.2.1 x.2.2.1 x.2.2.2 := clears (by decide)

theorem witness_ImmediatesAndAddresses : ∀ x ∈ [(0x3A, 63, 255, 255), (0x3B, 3, 0, 0), (0x3C, 3, 0, 0), (0x67, 3, 63, 0),
    (0x3D, 62, 2, 1), (0x3E, 4, 62, 1)], Clear (w0 0) 0 0 x.1 x.2.1 x.2.2.1 x.2.2.2 := clears (by decide)

theorem witness_FloatArithmetic : ∀ x ∈ [(0x40, 3, 1, 2), (0x41, 3, 1, 2), (0x42, 3, 1, 2), (0x43, 3, 1, 2), (0x44, 3, 1, 2),
    (0x45, 3, 1, 2), (0x46, 63, 1, 2)], Clear (w0 (8 * 32)) 0 0 x.1 x.2.1 x.2.2.1 x.2.2.2 := clears (by decide)

theorem witness_FloatFunctionsAndConversions : ∀ x ∈ [(0x48, 3, 1, 0), (0x49, 3, 1, 0), (0x4A, 3, 1, 0), (0x4B, 3, 1, 0),
    (0x4C, 3, 1, 0), (0x4D, 3, 1, 0), (0x4E, 3, 1, 14), (0x4F, 3, 2, 2), (0x50, 4, 1, 12), (0x50, 4, 1, 6), (0x51, 4, 1, 2)],
    Clear (w0 (6 * 32)) 0 0 x.1 x.2.1 x.2.2.1 x.2.2.2 := clears (by decide)

theorem witness_SequencerComputes : ∀ x ∈ [(0x58, 4, 2, 3), (0x59, 4, 2, 3), (0x5A, 4, 2, 3), (0x5B, 4, 2, 3), (0x5C, 4, 2, 3),
    (0x5D, 4, 2, 3), (0x5E, 63, 2, 3), (0x5F, 4, 2, 3), (0x61, 4, 2, 0), (0x62, 4, 255, 0), (0x63, 4, 0, 0), (0x64, 62, 2, 3)],
    Clear (w0 0) 0 0 x.1 x.2.1 x.2.2.1 x.2.2.2 := clears (by decide)

/-- Lane 1 of quad 0 has died. -/
def deadLane : State :=
  let gr := groupT (quadsT 0)
  world (modLane { gr with splits := { splitT with act := 0xFD } :: List.replicate 8 {} } 1 fun l => { l with dead := true })

theorem witness_SequencerComputes_readLane : Clear (w0 0) 0 0 0x68 4 1 3 ∧
    (∀ k ∈ actingQuads (w0 0) 0 0, laneLive (groupAt (w0 0) 0) (4 * k + 3) = true) :=
  ⟨clear_of_clearB (by decide), by decide⟩
theorem witness_SequencerComputes_deadLane : Clear deadLane 0 0 0x68 4 1 1 ∧ 0 ∈ actingQuads deadLane 0 0 ∧
    laneLive (groupAt deadLane 0) 1 = false ∧ 2 ∈ activeLanes deadLane 0 0 :=
  ⟨clear_of_clearB (by decide), by decide, by decide, by decide⟩

theorem witness_LanesExchange : ∀ x ∈ [(0x70, 3, 1, 0xFF), (0x71, 3, 1, 2), (0x72, 3, 1, 2), (0x73, 3, 1, 1), (0x73, 3, 1, 63),
    (0x74, 4, 1, 0), (0x75, 2, 1, 0), (0x75, 0, 1, 1), (0x75, 2, 1, 2)],
    Clear (w0 0) 0 0 x.1 x.2.1 x.2.2.1 x.2.2.2 := clears (by decide)

theorem witness_ModeWordsChange : ∀ x ∈ [(0x00, 0, 0, 0), (0x10, 0x60, 0, 0), (0x12, 0, 0, 0x1F)],
    Clear (w0 0) 0 0 x.1 x.2.1 x.2.2.1 x.2.2.2 := clears (by decide)
theorem witness_ModeWordsChange_reserved : Table.reservedMode (0x600000#24 |>.setWidth 32) = false := by decide
theorem witness_ModeWordsChange_exchange : Clear (w0 0) 0 0 0x11 255 2 0xFF ∧ ∀ k ∈ actingQuads (w0 0) 0 0,
    (sGet (groupAt (w0 0) 0) k 2).extractLsb' 24 8 = 0 ∧ Table.reservedMode ((modeOf (groupAt (w0 0) 0) k &&& ~~~(fieldMask 255))
      ||| (sGet (groupAt (w0 0) 0) k 2 &&& fieldMask 255)) = false :=
  ⟨clear_of_clearB (by decide), by decide⟩

theorem witness_SpecialRegisters : ∀ x ∈ [(0x15, 3, 0, 0), (0x15, 3, 1, 0), (0x15, 3, 2, 17), (0x15, 3, 3, 17), (0x15, 4, 0, 12),
    (0x15, 4, 0, 13), (0x15, 4, 0, 21)],
    Clear (w0 0) 0 0 x.1 x.2.1 x.2.2.1 x.2.2.2 := clears (by decide)
theorem witness_SpecialRegisters_cycle : coreKey (w0 0) 0 0 < (w0 0).cores.length := by decide

/-- The small machine in supervisor mode. -/
def wSuper : State := world { groupT (quadsT 0) with super := true }

theorem witness_SpecialRegisters_written : ∀ x ∈ [(0x16, 16, 1, 2), (0x16, 17, 0, 1), (0x16, 20, 0, 1), (0x16, 21, 0, 2)],
    Clear wSuper 0 0 x.1 x.2.1 x.2.2.1 x.2.2.2 := clears (by decide)

theorem witness_RestartPoints : Clear (w0 0) 0 0 0x0F 0 0 0 ∧ ((groupAt (w0 0) 0).splits.filter (·.valid)).length = 1 ∧
    (groupAt (w0 0) 0).regions = [] ∧ (groupAt (w0 0) 0).frame = none :=
  ⟨clear_of_clearB (by decide), by decide, by decide, by decide⟩
/-- A group about to restart, of which one marked register has an error. -/
def restartT : State :=
  world (modLane { groupT (quadsT 0) with restarting := true, idem := true, restart := 16, writtenV := [1] } 0
    fun l => { l with errV := [1] })
theorem witness_RestartPoints_restart : (groupAt restartT 0).restarting = true ∧ (groupAt restartT 0).gone = false ∧
    groupCounts (groupAt restartT 0) = true ∧ restartQuiet restartT 0 = true ∧ (groupAt restartT 0).frame = none ∧
    quadsOfLanes (liveMask (groupAt restartT 0)) ≠ 0 := by decide

/-- Two lanes of quad 1 fault. -/
def raiseT : Raise := { lanes := [(4, 9, 0x123), (6, 1, 0x77)], fpc := 16 }
theorem witness_TrapEntersHandler : (splitAt (groupAt (w0 0) 0) raiseT.entry).valid = true ∧ raiseT.entry < 8 ∧
    (groupAt (w0 0) 0).splits.length = 9 ∧ (groupAt (w0 0) 0).frame = none ∧ (groupAt (w0 0) 0).regions = [] ∧
    (handlerVector (w0 0) 0).1 ≠ 0 ∧ raiseT.lanes ≠ [] ∧ (∀ l ∈ raiseT.lanes.map (·.1), l < 64 ∧
      laneThere (groupAt (w0 0) 0) l ∧ (splitAt (groupAt (w0 0) 0) raiseT.entry).qmask.getLsbD (l / 4) = true) ∧
    (raiseT.lanes.map (·.1)).Nodup := by decide

theorem witness_TrappingWords : Clear (w0 0) 0 0 0x13 0 0 255 ∧ actingLanes (w0 0) 0 0 0x13 0 ≠ [] ∧
    (groupAt (w0 0) 0).frame = none ∧ (handlerVector (w0 0) 0).1 ≠ 0 ∧ (groupAt (w0 0) 0).splits.length = 9 :=
  ⟨clear_of_clearB (by decide), by decide, by decide, by decide, by decide⟩
/-- Guard p1 inverted: lanes 3 and 7 alone have it 0 in every quad. Guard p0 inverted stops every lane. -/
theorem witness_TrappingWords_noLane : Clear (w0 0x10) 0 0 0x13 0 0 1 ∧ actingLanes (w0 0x10) 0 0 0x13 0 = [] :=
  ⟨clear_of_clearB (by decide), by decide⟩
theorem witness_TrappingWords_unassigned : (w0 0).cur = some (0, 0) ∧ (splitAt (groupAt (w0 0) 0) 0).valid = true ∧
    (splitAt (groupAt (w0 0) 0) 0).act ≠ 0 ∧ (splitAt (groupAt (w0 0) 0) 0).marked = [] ∧ (groupAt (w0 0) 0).frame = none ∧
    (handlerVector (w0 0) 0).1 ≠ 0 ∧ (Table.row ((0x19000000 : Word).extractLsb' 24 8).toNat).isNone := by decide

/-- The handler of lane 0 of quad 0 runs in entry 8; its frame is at 0x30000. -/
def frameT : Frame := { va := 0x30000, flanes := 1, wlanes := 0xE, fpc := 16 }
def handlerT : State :=
  let sp8 : Split := { valid := true, handler := true, qmask := 1, st := .issuing, pc := 0x1010, act := 1 }
  { world { groupT (quadsT 0) with
      frame := some frameT
      splits := { splitT with qmask := 2, act := 0xF0, st := .ready } :: List.replicate 7 {} ++ [sp8] }
    with cur := some (0, 8) }
/-- As handlerT, with the whole group of one quad in the handler. -/
def handlerQuad : State :=
  let sp8 : Split := { valid := true, handler := true, qmask := 1, st := .issuing, pc := 0x1010, act := 1 }
  { world { groupT [quadT 0 [(2, 5)] 0 []] with frame := some frameT, splits := List.replicate 8 {} ++ [sp8] }
    with cur := some (0, 8) }
theorem witness_ReturnFromHandler : Clear handlerQuad 0 8 0x14 0 0 0 ∧ Clear handlerQuad 0 8 0x14 1 0 0 ∧
    (groupAt handlerQuad 0).frame = some frameT ∧ (splitAt (groupAt handlerQuad 0) 8).inner = frameT.inner ∧ frameT.rentry < 8 ∧
    (groupAt handlerQuad 0).splits.length = 9 ∧ (groupAt handlerQuad 0).regions = [] ∧ (groupAt handlerQuad 0).waiting = [] ∧
    frameT.resume = .plain ∧ frameT.flanes &&& liveMask (groupAt handlerQuad 0) ≠ 0 ∧
    (splitAt (groupAt handlerQuad 0) 8).qmask ≠ 0 ∧ splitAwaits (groupAt handlerQuad 0) 8 = false ∧
    groupDrained handlerQuad 0 = true ∧ clusterPerformed handlerQuad 0 = true ∧ (∀ l ∈ bitsOf (splitAt (groupAt handlerQuad 0) 8).act,
      (laneAt (groupAt handlerQuad 0) l).mark = none) ∧
    (∀ k ∈ bitsOf (splitAt (groupAt handlerQuad 0) 8).qmask, Table.reservedMode (frameMode handlerQuad 0 k) = false) :=
  ⟨clear_of_clearB (by decide), clear_of_clearB (by decide), by decide, by decide, by decide, by decide, by decide, by decide,
    by decide, by decide, by decide, by decide, by decide, by decide, by decide, by decide⟩

/-- A pending v1: a load of every lane has not returned. -/
def pendingT : State := world { groupT (quadsT 0) with reqs := [{ lanes := 0xFF, base := 1 }] }
theorem witness_ChecksInOrder : (w0 0).cur = some (0, 0) ∧ takers (w0 0) 0 0 0x16 0 ≠ [] ∧
    privBad (w0 0) 0 0 0x16 ((Table.row 0x16).getD {}) = true ∧ privBad (w0 0) 0 0 0x39 ((Table.row 0x39).getD {}) = false ∧
    Table.fieldsOk ((Table.row 0x39).getD {}) 3 1 1 = false := by decide
theorem witness_ChecksInOrder_pending : pendingT.cur = some (0, 0) ∧ takers pendingT 0 0 0x20 1 ≠ [] ∧
    privBad pendingT 0 0 0x20 ((Table.row 0x20).getD {}) = false ∧ queueCheck pendingT 0 0x20 3 1 2 = 0 ∧ Table.fieldsOk ((Table.row 0x20).getD {}) 3 1 2 = true ∧
    (∀ k ∈ actingQuads pendingT 0 0, quadCheck (groupAt pendingT 0) 0x20 3 1 2 ((Table.row 0x20).getD {}) k = 0) ∧
    (splitAt (groupAt pendingT 0) 0).park = none ∧
    anyPending pendingT 0 0x20 3 1 2 ((Table.row 0x20).getD {}) (actingQuads pendingT 0 0) = true := by decide

/-- ADD of v200 beyond the allocation, and FADD under a mode word of type 0. -/
theorem witness_ChecksInOrder_quads : ∀ x ∈ [(0x20, 200, 10), (0x40, 3, 16)], privBad (w0 0) 0 0 x.1 ((Table.row x.1).getD {}) = false ∧
    Table.fieldsOk ((Table.row x.1).getD {}) x.2.1 1 2 = true ∧ queueCheck (w0 0) 0 x.1 x.2.1 1 2 = 0 ∧ takers (w0 0) 0 0 x.1 1 ≠ [] ∧
    ∀ k ∈ actingQuads (w0 0) 0 0, quadCheck (groupAt (w0 0) 0) x.1 x.2.1 1 2 ((Table.row x.1).getD {}) k = x.2.2 := by decide

theorem witness_TransfersOfControl : ∀ x ∈ [(0x01, 0, 0, 0), (0x02, 0x00, 4, 5), (0x02, 0x10, 4, 5), (0x02, 0x00, 2, 4),
    (0x07, 4, 0, 0), (0x08, 4, 8, 0), (0x09, 0, 8, 0)], Clear (w0 0) 0 0 x.1 x.2.1 x.2.2.1 x.2.2.2 := clears (by decide)
theorem witness_TransfersOfControl_agree :
    (∀ k ∈ actingQuads (w0 0) 0 0, condSeq 0 (sGet (groupAt (w0 0) 0) k 4) (sGet (groupAt (w0 0) 0) k 5) = true) ∧
    (∀ k ∈ actingQuads (w0 0) 0 0, condSeq 1 (sGet (groupAt (w0 0) 0) k 4) (sGet (groupAt (w0 0) 0) k 5) = false) ∧
    (∀ k ∈ actingQuads (w0 0) 0 0, sPair (groupAt (w0 0) 0) k 8 = 0) := by decide
/-- s3 is 7 in quad 0 and 0 in quad 1. -/
theorem witness_TransfersOfControl_part : Clear (w0 0) 0 0 0x02 0x00 3 4 ∧ freeEntry (groupAt (w0 0) 0) = some 1 ∧
    condSeq 0 (sGet (groupAt (w0 0) 0) 0 3) (sGet (groupAt (w0 0) 0) 0 4) = false ∧
    condSeq 0 (sGet (groupAt (w0 0) 0) 1 3) (sGet (groupAt (w0 0) 0) 1 4) = true :=
  ⟨clear_of_clearB (by decide), by decide, by decide, by decide⟩

/-- Both branches of BRD: p1 differs between the lanes of each quad; p2 is 0 everywhere, p0 1 everywhere. -/
theorem witness_RegionsOpenAndClose : (∀ x ∈ [(0x03, 0, 0, 0), (0x03, 1, 0, 0), (0x03, 2, 0, 0)],
    Clear (w0 0) 0 0 x.1 x.2.1 x.2.2.1 x.2.2.2) ∧
    (firstFrom 8 fun i => !((groupAt (w0 0) 0).regions.any (usesEntry i))) = some 0 ∧
    (∀ r ∈ (groupAt (w0 0) 0).regions, r.num ≠ (groupAt (w0 0) 0).nextRegion) ∧
    ((activeLanes (w0 0) 0 0).all (pGet (groupAt (w0 0) 0) · 0) = true ∧
      (activeLanes (w0 0) 0 0).any (pGet (groupAt (w0 0) 0) · 2) = false) ∧
    (pGet (groupAt (w0 0) 0) 0 1 = true ∧ pGet (groupAt (w0 0) 0) 1 1 = false) :=
  ⟨clears (by decide), by decide, by decide, by decide, by decide⟩
/-- The split stands in region 0, whose JOIN is at its PC and whose record is in table entry 7. -/
def regionT : State :=
  world { groupT (quadsT 0) with
    nextRegion := 1, splits := { splitT with inner := some 0 } :: List.replicate 8 {}
    regions := [{ num := 0, place := .table 7, members := 3, lanes := 0xFF, joinpc := 16 }] }
theorem witness_RegionsOpenAndClose_join : Clear (w0 0) 0 0 0x04 0 0 0 ∧ (splitAt (groupAt (w0 0) 0) 0).inner = none ∧
    Clear regionT 0 0 0x04 0 0 0 ∧ (splitAt (groupAt regionT 0) 0).inner = some 0 ∧
    (regionAt (groupAt regionT 0) 0).place = .table 7 ∧ (∃ r ∈ (groupAt regionT 0).regions, r.num = 0) ∧
    (regionAt (groupAt regionT 0) 0).joinpc = (splitAt (groupAt regionT 0) 0).pc :=
  ⟨clear_of_clearB (by decide), by decide, clear_of_clearB (by decide), by decide, by decide, by decide, by decide⟩
theorem witness_RegionsOpenAndClose_break : Clear regionT 0 0 0x05 1 0 0 ∧
    (regionChain (groupAt regionT 0) 1 (splitAt (groupAt regionT 0) 0).inner) = [0] ∧ inTable (regionAt (groupAt regionT 0) 0) = true ∧
    (∀ k ∈ bitsOf (splitAt (groupAt regionT 0) 0).qmask, heldIn (groupAt regionT 0) [0] k = none) ∧
    (splitAt (groupAt regionT 0) 0).qmask ≠ 0 :=
  ⟨clear_of_clearB (by decide), by decide, by decide, by decide, by decide⟩

theorem witness_LanesLeaveAndDemote : ∀ x ∈ [(0x0A, 0, 0, 0), (0x0B, 0, 0, 0)],
    Clear (w0 0) 0 0 x.1 x.2.1 x.2.2.1 x.2.2.2 := clears (by decide)

/-- s5 is 0: a length of 0 and a join at the JT itself. -/
theorem witness_JumpTables : Clear (w0 0) 0 0 0x06 0 4 5 ∧ (splitAt (groupAt (w0 0) 0) 0).park = none ∧
    (splitAt (groupAt (w0 0) 0) 0).inner = none ∧ (groupAt (w0 0) 0).reqs = [] ∧
    (∀ l ∈ activeLanes (w0 0) 0 0, (laneAt (groupAt (w0 0) 0) l).mark = none) ∧
    (∀ k ∈ actingQuads (w0 0) 0 0, sGet (groupAt (w0 0) 0) k 5 = 0) ∧ (splitAt (groupAt (w0 0) 0) 0).rejoin = 0 ∧
    (splitAt (groupAt (w0 0) 0) 0).st ≠ .atJoin :=
  ⟨clear_of_clearB (by decide), by decide, by decide, by decide, by decide, by decide, by decide, by decide⟩
/-- The entry loads of a JT of one quad have returned with offset 2. -/
def jumpT : State :=
  world { groupT [quadT 0 [] 0 []] with
    nextRegion := 1
    splits := { splitT with qmask := 1, act := 0xF, inner := some 0, park := some .entries } :: List.replicate 8 {}
    regions := [{ num := 0, members := 1, lanes := 0xF, joinpc := 64 }]
    reqs := (List.range 4).map fun l =>
      { id := l, what := .entry ⟨.hbm, 0x100⟩, lane := l, lanes := BitVec.twoPow 64 l, regs := 0, data := some [2], back := true } }
theorem witness_JumpTables_entries : Clear jumpT 0 0 0x06 0 4 6 ∧ (splitAt (groupAt jumpT 0) 0).park = some .entries ∧
    (splitAt (groupAt jumpT 0) 0).inner = some 0 ∧ (splitAt (groupAt jumpT 0) 0).rejoin = 0 ∧
    (splitAt (groupAt jumpT 0) 0).st ≠ .atJoin ∧ (∃ r ∈ (groupAt jumpT 0).regions, r.num = 0) ∧
    (∀ r ∈ (groupAt jumpT 0).reqs, r.back = true ∧ r.poisoned = false ∧ r.mark = 0 ∧ r.data = some [2]) ∧
    (∀ l ∈ activeLanes jumpT 0 0, ∃ r ∈ (groupAt jumpT 0).reqs, r.lane = l ∧ r.what = .entry ⟨.hbm, 0x100⟩) ∧
    (∀ l ∈ activeLanes jumpT 0 0, (laneAt (groupAt jumpT 0) l).mark = none) :=
  ⟨clear_of_clearB (by decide), by decide, by decide, by decide, by decide, by decide, by decide, by decide, by decide⟩

/-! ### Accesses -/

/-- Addresses 0 to 0x7FFFF lie at the same places of HBM. -/
def locT (a : Ask) : Loc := ⟨.hbm, a.va.toNat⟩
def locPool (a : Ask) : Loc := ⟨.pool 0, a.va.toNat⟩
theorem served_role {s : State} {p : Nat} (asks : List Ask) : (∀ a ∈ asks, RoleKnown s p (locT a)) := fun _ _ _ _ h => nomatch h
theorem served_pool {s : State} {p : Nat} (asks : List Ask) : (∀ a ∈ asks, RoleKnown s p (locPool a)) := fun _ _ _ _ h => nomatch h
def env0 (op d a b : Nat) : Env := envOf (w0 0) 0 0 op d a b 0
def laneAsks (op a : Nat) (va : Nat → DWord) (k : Access) (pool : Bool) : List Ask :=
  ((actingLanes (w0 0) 0 0 op a).filter fun l => k == .read || !(laneAt (groupAt (w0 0) 0) l).helper).map fun l =>
    laneAsk (groupAt (w0 0) 0) l (va l) k pool

theorem witness_LaneLoadsIssue : ∀ x ∈ [(0x80, 4, 8, 252), (0x81, 4, 8, 9), (0x84, 4, 8, 252), (0x86, 4, 8, 6)],
    Clear (w0 0) 0 0 x.1 x.2.1 x.2.2.1 x.2.2.2 := clears (by decide)
theorem witness_LaneLoadsIssue_served :
    Served (env0 0x80 4 8 252) (laneAsks 0x80 8 (fun l => vPair (groupAt (w0 0) 0) l 8 + 252) .read false) locT ∧
    Served (env0 0x84 4 8 252) (laneAsks 0x84 8 (fun l => zext (vGet (groupAt (w0 0) 0) l 8 + 252)) .read true) locPool :=
  ⟨⟨by decide, by decide, by decide, served_role _, by decide, by decide⟩, ⟨by decide, by decide, by decide, served_pool _, by decide, by decide⟩⟩
/-- s6 names the generation before the first one, which is the live one only where GENCUR says so. -/
def liveT : State := world (groupT [quadT 0 [(6, 0xFFFFFFFF)] 0 [], quadT 1 [(6, 1)] 0 []])
theorem witness_LaneLoadsIssue_view : Clear liveT 0 0 0x86 4 8 6 ∧ ∀ l ∈ actingLanes liveT 0 0 0x86 8,
    sGet (groupAt liveT 0) (l / 4) 6 = 0xFFFFFFFF ∨
      (sGet (groupAt liveT 0) (l / 4) 6).toNat = (partAt liveT (groupAt liveT 0).part).gencur :=
  ⟨clear_of_clearB (by decide), by decide⟩

theorem witness_StoresQueue : ∀ x ∈ [(0x82, 4, 8, 252), (0x83, 4, 8, 9), (0x85, 4, 8, 252), (0x65, 4, 8, 0), (0x66, 4, 8, 252)],
    Clear (w0 0) 0 0 x.1 x.2.1 x.2.2.1 x.2.2.2 := clears (by decide)
theorem witness_StoresQueue_served :
    Served (env0 0x82 4 8 252) (laneAsks 0x82 8 (fun l => vPair (groupAt (w0 0) 0) l 8 + 252) .write false) locT ∧
    Served (env0 0x85 4 8 252) (laneAsks 0x85 8 (fun l => zext (vGet (groupAt (w0 0) 0) l 8 + 252)) .write true) locPool ∧
    Served (env0 0x65 4 8 0) ([0, 1].map fun k => quadAsk (w0 0) 0 0 k 0 .read) locT ∧
    Served (env0 0x66 4 8 252) ([0, 1].map fun k => quadAsk (w0 0) 0 0 k 252 .write) locT :=
  ⟨⟨by decide, by decide, by decide, served_role _, by decide, by decide⟩, ⟨by decide, by decide, by decide, served_pool _, by decide, by decide⟩,
    ⟨by decide, by decide, by decide, served_role _, by decide, by decide⟩, ⟨by decide, by decide, by decide, served_role _, by decide, by decide⟩⟩
/-- No translation is cached. -/
def noTlb : State := { w0 0 with tlb := [] }
def envNoTlb : Env := envOf noTlb 0 0 0x82 4 8 0 0
def asksNoTlb : List Ask := laneAsks 0x82 8 (fun l => vPair (groupAt (w0 0) 0) l 8) .write false
theorem witness_StoresQueue_unknown : Clear noTlb 0 0 0x82 4 8 0 ∧ asksNoTlb.filter envNoTlb.misses ≠ [] ∧
    (∀ x ∈ asksNoTlb, envNoTlb.misses x = true) ∧ StandsAlone (groupAt noTlb 0) 0 ∧
    (distinct (clusterWalks noTlb 0 0 ++ pagesOf (asksNoTlb.filter envNoTlb.misses))).length ≤ 1024 ∧
    (envNoTlb.sectors asksNoTlb).length ≤ missFree noTlb 0 0 :=
  ⟨clear_of_clearB (by decide), by decide, by decide, alone0 _ (by decide), by decide, by decide⟩

theorem witness_AtomicsQueue : (∀ x ∈ [(0x90, 255, 8, 6), (0x91, 4, 8, 6), (0x92, 4, 8, 6), (0x93, 4, 8, 6), (0x94, 4, 8, 6),
    (0x95, 4, 8, 6), (0x96, 4, 8, 6), (0x97, 4, 8, 6), (0x99, 4, 8, 6), (0x9A, 4, 8, 0), (0x9B, 4, 8, 6)],
    Clear (w0 0) 0 0 x.1 x.2.1 x.2.2.1 x.2.2.2) ∧ Clear (w0 (6 * 32)) 0 0 0x98 4 8 6 :=
  ⟨clears (by decide), clear_of_clearB (by decide)⟩
theorem witness_AtomicsQueue_served : Served (env0 0x99 4 8 6)
    (((actingLanes (w0 0) 0 0 0x99 8).filter fun l => !(laneAt (groupAt (w0 0) 0) l).helper).map fun l =>
      { lane := l, who := [l], va := vPair (groupAt (w0 0) 0) l 8, size := 8, align := 8, kind := .atomic
        acq := acquires (modeOf (groupAt (w0 0) 0) (l / 4)), atom := 0x99 }) locT :=
  ⟨by decide, by decide, by decide, served_role _, by decide, by decide⟩

theorem witness_PrefetchesAndFences : ∀ x ∈ [(0x87, 0, 8, 64), (0x88, 0, 0, 0), (0x88, 0, 0, 1), (0x88, 0, 0, 2)],
    Clear (w0 0) 0 0 x.1 x.2.1 x.2.2.1 x.2.2.2 := clears (by decide)
def prefAsk (l : Nat) : Ask :=
  { lane := l, who := [l], va := vPair (groupAt (w0 0) 0) l 8 + 64, size := 1, align := 1, kind := .read, lock := false }
theorem witness_PrefetchesAndFences_sector :
    ((actingLanes (w0 0) 0 0 0x87 8).map prefAsk).filter (env0 0x87 0 8 64).misses = [] ∧
    judgeAsk (env0 0x87 0 8 64) (prefAsk 0) = .ok ⟨.hbm, 64⟩ ∧ (clusterWalks (w0 0) 0 0).length ≤ 1024 ∧
    (actingLanes (w0 0) 0 0 0x87 8).length ≤ missFree (w0 0) 0 0 := by decide
theorem witness_PrefetchesAndFences_unknown : Clear noTlb 0 0 0x87 0 8 64 ∧
    ((actingLanes noTlb 0 0 0x87 8).map prefAsk).filter (envOf noTlb 0 0 0x87 0 8 64 0).misses ≠ [] ∧
    StandsAlone (groupAt noTlb 0) 0 := ⟨clear_of_clearB (by decide), by decide, alone0 _ (by decide)⟩
/-- Scope 1 is the workgroup, 0 the device. -/
theorem witness_PrefetchesAndFences_scopes : Clear (w0 0x40000) 0 0 0x88 0 0 0 ∧
    (∀ k ∈ actingQuads (w0 0x40000) 0 0, Table.scopeOf (modeOf (groupAt (w0 0x40000) 0) k) = 1) ∧
    (∃ k ∈ actingQuads (w0 0) 0 0, Table.scopeOf (modeOf (groupAt (w0 0) 0) k) = 0) ∧ (groupAt (w0 0) 0).reqs = [] ∧
    (groupAt (w0 0) 0).storeQ = [] ∧ tilesDue (w0 0) 0 = [] ∧ clusterPerformed (noteAcquire (w0 0) 0) 0 = true ∧ groupDrained (w0 0) 0 = true ∧ walksDue (w0 0) 0 = [] :=
  ⟨clear_of_clearB (by decide), by decide, by decide, by decide, by decide, by decide, by decide, by decide, by decide⟩

/-! ### Packets -/

def storeT (loc : Loc) (st : Stage) : Write := { id := 5, lane := 1, loc := loc, op := .store [1, 2, 3, 4], stage := st }
/-- A store of lane 1 waits in the store queue. -/
def queuedT (loc : Loc) : State := world { groupT (quadsT 0) with storeQ := [storeT loc .core] }
theorem witness_PrefetchesAndFences_waits : Clear (queuedT ⟨.hbm, 64⟩) 0 0 0x88 0 0 0 ∧
    groupDrained (queuedT ⟨.hbm, 64⟩) 0 = false ∧ (groupAt (queuedT ⟨.hbm, 64⟩) 0).reqs = [] ∧
    tilesDue (queuedT ⟨.hbm, 64⟩) 0 = [] ∧ walksDue (queuedT ⟨.hbm, 64⟩) 0 = [] := ⟨clear_of_clearB (by decide), by decide, by decide, by decide, by decide⟩

/-- Loads of lanes 0 and 1 in one sector are one sector request; lane 2 loads elsewhere. -/
def sectorT (id l va : Nat) : Req :=
  { id := id, iid := 3, what := .mem ⟨.hbm, va⟩ 4 false, lane := l, lanes := BitVec.twoPow 64 l, base := 3
    va := BitVec.ofNat 64 va, slack := { s := 10 } }
def loadT : Req := sectorT 7 0 64
def servedT : State := world { groupT (quadsT 0) with reqs := [loadT, sectorT 8 1 68, sectorT 9 2 96] }
theorem witness_LoadsReturnWhatTheLaneSees : 0 < servedT.groups.length ∧ (groupAt servedT 0).wg < servedT.wgs.length ∧
    sectorRequest servedT 0 loadT = [loadT, sectorT 8 1 68] ∧
    (∀ x ∈ (groupAt servedT 0).reqs, ∀ y ∈ (groupAt servedT 0).reqs, x.id = y.id → x = y) ∧
    (∀ r ∈ [loadT, sectorT 8 1 68], loadHeld servedT 0 r ⟨.hbm, r.va.toNat⟩ 4 = false ∧
      ∀ x ∈ (groupAt servedT 0).reqs, x.lane = r.lane → x.id ≤ r.id → x = r) ∧
    remaining loadT.slack servedT.now ≠ 0 := by decide

theorem witness_WritesArePerformed : (∀ l ∈ [(⟨.cap, 64⟩ : Loc), ⟨.peer 3, 0⟩, ⟨.pool 0, 4092⟩],
    (groupAt (queuedT l) 0).storeQ = [storeT l .core] ∧ mayDepart (queuedT l) 0 (storeT l .core) = true ∧
    (groupAt (queuedT l) 0).gone = false ∧ (partAt (queuedT l) 0).frozen = false ∧
    loadsBefore (queuedT l) 0 (storeT l .core) = [] ∧ leavesWith (storeT l .core) [] = [] ∧
    storesWalking (queuedT l) 0 (storeT l .core) = false) ∧ 0 < (queuedT ⟨.pool 0, 4092⟩).gangs.length := by decide
def sliceT : State := { w0 0 with flight := [storeT ⟨.hbm, 64⟩ (.slice 0)] }
theorem witness_WritesArePerformed_slice : sliceT.flight.filter atSlice = [storeT ⟨.hbm, 64⟩ (.slice 0)] ∧
    (∀ x ∈ sliceT.flight, x.group = 0 → x.id < 5 → x.applied = true) ∧ (partAt sliceT 0).gens = [] ∧
    performedWith sliceT (storeT ⟨.hbm, 64⟩ (.slice 0)) = [storeT ⟨.hbm, 64⟩ (.slice 0)] ∧
    behindOwn sliceT (storeT ⟨.hbm, 64⟩ (.slice 0)) = false ∧ needsFrame (partAt sliceT 0) 0 0 0 = false ∧ ownsLoc sliceT 0 ⟨.hbm, 64⟩ = true ∧
    isStore (storeT ⟨.hbm, 64⟩ (.slice 0)).op = true ∧ memOpNew (.store [1, 2, 3, 4]) 4 0 = some 0x04030201 := by decide
def ackT : State := { w0 0 with flight := [{ storeT ⟨.hbm, 64⟩ .served with applied := true }] }
theorem witness_WritesArePerformed_acknowledged :
    (ackT.flight.find? fun x => x.id == 5 && x.applied && x.ret.isNone) =
      some { storeT ⟨.hbm, 64⟩ .served with applied := true } ∧ 0 < ackT.wgs.length ∧
    (∀ x ∈ ackT.flight, x.applied = true) ∧ (groupAt ackT 0).storeQ = [] := by decide
/-- A store of the same instruction to the same sector is not performed yet. -/
theorem witness_WritesArePerformed_due :
    sameAck { storeT ⟨.hbm, 64⟩ .served with applied := true } { storeT ⟨.hbm, 68⟩ (.slice 0) with id := 6, lane := 2 } = true := by decide

/-- A line at address 0: VER 1, LAST 1, one-word instructions in slots 0 and 1. -/
def lineT : State :=
  let bytes := lineOfWords 0x20030102 0x39040100
  { w0 0 with
    hbm := [(0, 1), (2, 1), (0x10000, 15), (0x20000, 0xFF)] ++
      ((List.range 128).zip bytes |>.filter (·.2 != 0)).map fun x => (0x30000 + x.1, x.2)
    groups := [{ groupT (quadsT 0) with splits := { splitT with pc := 0x30010 } :: List.replicate 8 {} }] }
def leafT : Leaf := { large := true, user := true, write := true }
theorem witness_FetchesAndWalks : mayIssue lineT 0 0 = true ∧ lineHere (splitAt (groupAt lineT 0) 0) = false ∧
    tlbFind lineT 0 0 ((lineOf 0x30010).toNat / 65536) = some leafT ∧ leafCheck leafT true .fetch = 0 ∧
    ownsLoc lineT 0 (leafLoc 0 leafT (lineOf 0x30010)) = true := by decide
theorem witness_FetchesAndWalks_header : headerOk (laneBytes lineT 0 0 lineT.nextId (leafLoc 0 leafT (lineOf 0x30010)) 128) = true := by decide
/-- A store of lane 1 waits for the walk of page 0. -/
def walkAsk : Ask :=
  { iid := 3, lane := 1, who := [1], va := 64, size := 4, align := 4, kind := .write, write := some (storeT {} .core) }
def walkT : State :=
  let s := world { groupT (quadsT 0) with
    splits := { splitT with st := .waitBit, park := some (.walk [{ asks := [walkAsk], fpc := 12 }]) } :: List.replicate 8 {} }
  { s with tlb := [], nextId := 9 }
theorem witness_FetchesAndWalks_walk : (groupAt walkT 0).splits.length = 9 ∧ walkAsk ∈ askedBy (splitAt (groupAt walkT 0) 0) ∧
    (((groupAt walkT 0).splits.flatMap askedBy).filter fun x =>
      pageOf x.va == 0 && x.lane == walkAsk.lane && x.iid == walkAsk.iid) = [walkAsk] ∧
    firstAsk ((((groupAt walkT 0).splits.flatMap askedBy).filter fun x => pageOf x.va == 0).map fun x => (0, x)) = some (0, walkAsk) ∧
    walkReady walkT 0 1 3 = some walkT ∧ ctlbFind walkT 0 0 0 = none ∧ walk walkT (.lane 0 1 3) 0 0 = .leaf leafT ∧
    walkStarter walkT 0 0 0 = some (0, walkAsk) ∧ walkServed walkT 0 walkAsk.deadline = true ∧
    laneLive (groupAt walkT 0) 1 = true ∧ judge' walkT 0 0 walkAsk (some (.leaf leafT)) = .ok ⟨.hbm, 64⟩ := by decide

/-! ### Synchronisation -/

theorem witness_BarriersArriveAndRelease : (∀ x ∈ [(0xA0, 0, 4, 0), (0xA1, 0, 62, 0)],
    Clear (w0 0) 0 0 x.1 x.2.1 x.2.2.1 x.2.2.2) ∧ (∃ l ∈ activeLanes (w0 0) 0 0, (laneAt (groupAt (w0 0) 0) l).helper = false) ∧
    heldQuads (groupAt (w0 0) 0) 3 = false ∧ groupSeen (w0 0) 0 = true ∧ 0 < (w0 0).wgs.length ∧ 0 < (w0 0).gangs.length :=
  ⟨clears (by decide), by decide, by decide, by decide, by decide, by decide⟩
/-- Both quads have arrived with a mask that names both. -/
def barrierT : State :=
  world { groupT (quadsT 0) with splits := { splitT with st := .atBar, park := some (.bar false 0) } :: List.replicate 8 {} }
    { bar := { arrivals := [⟨0, 0, 0, 3, 0⟩, ⟨0, 0, 1, 3, 0⟩] } }
theorem witness_BarriersArriveAndRelease_complete : atInstance barrierT (wgAt barrierT 0).groups false 0 = [(0, 0)] ∧
    (∀ a ∈ (wgAt barrierT 0).bar.arrivals, quadReal barrierT 0 a.q = true ∧ barMask barrierT 0 a.mask = [0, 1]) ∧
    (wgAt barrierT 0).groups.Nodup ∧
    isTwoWord (opcodeOf (slotWord (splitAt (groupAt barrierT 0) 0).line (slotOf (splitAt (groupAt barrierT 0) 0).pc))) = false := by
  decide

theorem witness_WaitsOnWords : Clear (w0 0) 0 0 0xA2 0x30 8 4 ∧
    (clusterWalks (w0 0) 0 0).length ≤ 1024 ∧
    ((env0 0xA2 0x30 8 4).sectors ((env0 0xA2 0x30 8 4).quads.map (waitaAsk (env0 0xA2 0x30 8 4) (w0 0).nextId))).length ≤ missFree (w0 0) 0 0 ∧
    ∀ k ∈ (env0 0xA2 0x30 8 4).quads, (env0 0xA2 0x30 8 4).misses (waitaAsk (env0 0xA2 0x30 8 4) (w0 0).nextId k) = false ∧
      judgeAsk (env0 0xA2 0x30 8 4) (waitaAsk (env0 0xA2 0x30 8 4) (w0 0).nextId k) = .ok ⟨.hbm, 0⟩ :=
  ⟨clear_of_clearB (by decide), by decide, by decide, by decide⟩
def waitaT : State :=
  world { groupT (quadsT 0) with
    splits := { splitT with st := .atWaita, park := some (.waita 0 [(0, ⟨.hbm, 0⟩, 0x10001, 0), (1, ⟨.hbm, 4⟩, 0, 4)]) } :: List.replicate 8 {} }
theorem witness_WaitsOnWords_read : (splitAt (groupAt waitaT 0) 0).st = .atWaita ∧ coreHalted waitaT 0 0 = false ∧
    waitaReady 0 0 [(0, ⟨.hbm, 0⟩, 0x10001, 0), (1, ⟨.hbm, 4⟩, 0, 4)] waitaT = some waitaT ∧
    ∀ x ∈ [(0, (⟨.hbm, 0⟩ : Loc), (0x10001 : Word), (0 : DWord)), (1, ⟨.hbm, 4⟩, 0, 4)],
      waitaLane (splitAt (groupAt waitaT 0) 0) x.1 = some (4 * x.1) ∧ farWord waitaT 0 x = false ∧
      condSeq 0 (BitVec.ofNat 32 (leNat (laneBytes waitaT 0 (4 * x.1) waitaT.nextId x.2.1 4))) x.2.2.1 = true := by decide

/-- s4 to s7 hold a record: base 4064, slots of 8 bytes, 4 slots, allowance 4; queue 15 is defined, empty or full or between. -/
def queueT (n : Nat) : State :=
  let s := world (groupT [quadT 0 [(4, 4064), (5, 8), (6, 4), (7, 4)] 0 []]) {}
    { queues := List.replicate 15 {} ++
      [{ defined := true, base := 0, slotsz := 4, slots := 2, allow := 2, tail := n % 2, count := n, allowance := 2 - n }] }
  modGroup s 0 fun gr => modSplit gr 0 fun sp => { sp with qmask := 1, act := 15 }
theorem witness_QueuesHoldValues : Clear (queueT 0) 0 0 0xA3 0 4 0 ∧ (queueAt (queueT 0) 0 0).defined = false ∧
    4064 % 8 = 0 ∧ 4064 + 4 * 8 ≤ poolEnd (queueT 0) 0 ∧ 0 < (gangAt (queueT 0) 0).queues.length :=
  ⟨clear_of_clearB (by decide), by decide, by decide, by decide, by decide⟩
theorem witness_QueuesHoldValues_push : Clear (queueT 1) 0 0 0xA4 15 5 0 ∧ Clear (queueT 1) 0 0 0xA6 1 5 15 ∧
    tilesDue (queueT 1) 0 = [] ∧ (∃ l ∈ activeLanes (queueT 1) 0 0, (laneAt (groupAt (queueT 1) 0) l).helper = false) ∧
    groupSeen (queueT 1) 0 = true ∧ (groupAt (queueT 1) 0).reqs = [] ∧ (queueAt (queueT 1) 0 15).allowance ≠ 0 :=
  ⟨clear_of_clearB (by decide), clear_of_clearB (by decide), by decide, by decide, by decide, by decide, by decide⟩
theorem witness_QueuesHoldValues_pop : Clear (queueT 2) 0 0 0xA5 5 15 0 ∧ Clear (queueT 2) 0 0 0xA7 5 15 1 ∧
    queueFault (queueAt (queueT 2) 0 15) 5 = 0 ∧ (queueAt (queueT 2) 0 15).count ≠ 0 ∧ (queueAt (queueT 2) 0 15).poppers = [] ∧
    15 < (gangAt (queueT 2) 0).queues.length ∧ laneSettled 0 (activeLanes (queueT 2) 0 0) (queueT 2) = some (queueT 2) :=
  ⟨clear_of_clearB (by decide), clear_of_clearB (by decide), by decide, by decide, by decide, by decide, rfl⟩
theorem witness_QueuesHoldValues_full : Clear (queueT 2) 0 0 0xA4 15 5 0 ∧ Clear (queueT 2) 0 0 0xA6 1 5 15 ∧
    (queueAt (queueT 2) 0 15).allowance = 0 ∧ Clear (queueT 0) 0 0 0xA5 5 15 0 ∧ Clear (queueT 0) 0 0 0xA7 5 15 0 ∧
    queueFault (queueAt (queueT 0) 0 15) 5 = 0 ∧ (queueAt (queueT 0) 0 15).count = 0 ∧
    laneSettled 0 (activeLanes (queueT 0) 0 0) (queueT 0) = some (queueT 0) :=
  ⟨clear_of_clearB (by decide), clear_of_clearB (by decide), by decide, clear_of_clearB (by decide), clear_of_clearB (by decide),
    by decide, by decide, rfl⟩

/-! ### The network, generations, contexts -/

/-- A write announced in window 0 on a machine at 24 ns. -/
def netT (st : Stage) : State := { w0 0 with now := 24, flight := [storeT ⟨.hbm, 64⟩ st] }
theorem witness_PacketsAreServed : packets (advance (netT (.announced 3)) 32) =
      [writePkt (advance (netT (.announced 3)) 32) (storeT ⟨.hbm, 64⟩ (.announced 3))] ∧
    hasSlice (⟨.hbm, 64⟩ : Loc) = true ∧ (∀ x ∈ (netT (.announced 3)).wgs, ∀ c ∈ x.circuits, c.isOpen = false) := by decide
theorem witness_PacketsAreServed_cluster : ((packets (netT .cluster)).filter fun p => p.stage == .cluster &&
    physCluster (netT .cluster) p.part (p.core / 8) == 0 && inTurn (netT .cluster) (packets (netT .cluster)) p) ≠ [] := by decide
theorem witness_PacketsAreServed_controller : ((packets { servedT with groups := [{ groupT (quadsT 0) with
    reqs := [{ loadT with stage := .controller }] }] }).filter fun p => p.stage == .controller && p.slice / 4 == 0) ≠ [] ∧
    (nth {} servedT.hbmStacks 0).tripped = false := by decide
theorem witness_PacketsAreServed_admission : ((packets { servedT with groups := [{ groupT (quadsT 0) with
    reqs := [{ loadT with stage := .admission }] }] }).filter fun p => p.slice / 4 == 0 && !p.isWrite).map (·.stage) = [.admission] := by
  decide

def circT : State := world (groupT [quadT 0 [(4, 8191), (5, 47), (6, 48 * 65536 + 1)] 0 [], quadT 1 [(4, 8191), (5, 47), (6, 48 * 65536 + 1)] 0 []])
theorem witness_SlackClassesAndCircuits : ∀ x ∈ [(0xC1, 7, 4, 0), (0xC2, 3, 5, 6), (0xC3, 3, 0, 0)],
    Clear circT 0 0 x.1 x.2.1 x.2.2.1 x.2.2.2 := clears (by decide)
theorem witness_SlackClassesAndCircuits_record : (sGet (groupAt circT 0) 0 4).toNat < 8192 ∧ (sGet (groupAt circT 0) 0 5).toNat < 48 ∧
    (sGet (groupAt circT 0) 0 6).toNat % 65536 ≠ 0 ∧ (sGet (groupAt circT 0) 0 6).toNat / 65536 ≤ 48 := by decide

/-- Two generations are held; SNAP of a supervisor group; the receipt of a parked SNAP lies two windows back. -/
def snapT : State := world { groupT (quadsT 0) with super := true } {} {} { gens := [{ num := 1 }], gencur := 2 }
def cutT : State :=
  { world { groupT (quadsT 0) with splits := { splitT with st := .waitBit, park := some (.snap 4 0) } :: List.replicate 8 {} } {} {}
      { cuts := [0, 1] }
    with now := 16 }
theorem witness_GenerationsCloseAndEnd : Clear snapT 0 0 0xC4 4 0 0 ∧ groupAcked snapT 0 = true ∧ clusterPerformed snapT 0 = true ∧
    (partAt snapT 0).gens.length + (partAt snapT 0).cuts.length < 3 ∧ Clear snapT 0 0 0xC5 4 2 0 ∧ Clear snapT 0 0 0xC6 0 2 0 ∧
    2 ≤ genState (partAt snapT 0) 1 :=
  ⟨clear_of_clearB (by decide), by decide, by decide, by decide, clear_of_clearB (by decide), clear_of_clearB (by decide), by decide⟩
theorem witness_GenerationsCloseAndEnd_cut : cutsDue cutT 0 = [0] ∧ snapsParked cutT 0 = [(0, 0, 4, 0)] := by
  decide
def sluiceT : Partition :=
  { gens := [{ num := 1 }], gencur := 2, backings := [⟨0, 5, 0, 1, 5, false⟩], capFree := [9]
    live := [{ kind := 1, blk := 5, gen := 2, frame := 6 }] }
theorem witness_GenerationsCloseAndEnd_sluice : sluiceT.sluiceOn = true ∧ reachesHbm 1 (⟨0, 5, 0, 1, 5, false⟩ : Backing) = true ∧
    fillReads sluiceT ⟨0, 5, 0, 1, 5, false⟩ = false ∧ sluiceT.leftList = [] := by decide
theorem witness_GenerationsCloseAndEnd_copier : let s : State := world (groupT (quadsT 0)) {} {} { live := [⟨0, 0, 1, 5, [], false⟩] }
    (partAt s 0).live = [⟨0, 0, 1, 5, [], false⟩] ∧ 0 < s.parts.length := by decide

/-- Blocks of both kinds and of one number await their copies. -/
theorem witness_GenerationsCloseAndEnd_kinds : let s : State := world (groupT (quadsT 0)) {} {} { live := [⟨1, 5, 2, 6, [], false⟩, ⟨0, 5, 2, 7, [], false⟩] }
    ∃ x ∈ (partAt s 0).live, x.blk = 5 ∧ x.kind = 0 ∧ x.full = false := by decide
theorem witness_ContextsStopAndResume : Clear wSuper 0 0 0x18 0 4 0 ∧ (splitAt (groupAt wSuper 0) 0).park = none ∧
    groupAcked wSuper 0 = true ∧ translatedBefore wSuper 0 wSuper.nextId = false :=
  ⟨clear_of_clearB (by decide), by decide, by decide, by decide⟩

theorem witness_ContextsStopAndResume_granule :
    let s : State := world (groupT (quadsT 0)) {} {} { preempted := [0] }
    0 < s.parts.length ∧ (0 : Nat) ∈ (partAt s 0).preempted ∧ physCluster s 0 0 < 12 ∧ 0 < (cfgOf s 0).ceil ∧
    (partAt s 0).saved = [] ∧ granuleOk (.slot 0 0) = true ∧ granuleCluster (.slot 0 0) = 0 := by decide

/-! ### Engines -/

/-- s4 to s15 hold a copy record: a fill of one row of 64 bytes at 0x40 of the pool, without a guard. -/
def copyQuad : Quad :=
  quadT 0 [(4, 0xFF0009), (7, 0x40), (9, 1), (10, 64), (11, 64), (12, 64), (15, 0xA1B2C3D4)] 0 []
def copyT : State := modGroup (world (groupT [copyQuad])) 0 fun gr => modSplit gr 0 fun sp => { sp with qmask := 1, act := 15 }
def copyEnv : Env := envOf copyT 0 0 0xB0 0 4 0 0
theorem witness_CopyCommands : Clear copyT 0 0 0xB0 0 4 0 ∧ 0 < copyT.wgs.length ∧
    copyOk copyEnv (sGet (groupAt copyT 0) copyEnv.q0 4).toNat (copyRec copyEnv copyT.nextId) = true ∧
    copyMisaligned (copyRec copyEnv copyT.nextId) = none ∧ (copyRec copyEnv copyT.nextId).guard = 255 ∧
    (wgAt copyT 0).commands = [] ∧ clusterCommands copyT 0 0 < 64 ∧ acquiresDue copyT 0 (activeLanes copyT 0 0) = false :=
  ⟨clear_of_clearB (by decide), by decide, by decide, by decide, by decide, by decide, by decide, by decide⟩
theorem witness_CopyCommands_guard : Clear (w0 0) 0 0 0xA8 1 4 0 ∧ 1 < (wgAt (w0 0) 0).guards.length ∧
    (sGet (groupAt (w0 0) 0) 0 4).toNat < 3 := ⟨clear_of_clearB (by decide), by decide, by decide⟩
/-- The command of copyT in its workgroup's queue. -/
def commandT (started : Bool) : State :=
  world (groupT (quadsT 0)) { commands := [{ copyRec copyEnv 0 with released := true, started := started }] }
/-- A copy of global memory into the pool, whose first sector passes its checks. -/
theorem witness_CopyCommands_read : engineLoc (commandT true) (.cluster 0) 0 0 true (0x40 + 0 * 0 + 0) .read = .ok ⟨.hbm, 0x40⟩ := rfl
theorem witness_CopyCommands_walk : lateWalkDue (commandT true) 0 0x40 0 = true := by decide
theorem witness_CopyCommands_ids : ((wgAt (commandT false) 0).commands.map (·.id)).Nodup ∧
    (∀ x ∈ (wgAt copyT 0).commands, x.id ≠ copyT.nextId) := by decide
theorem witness_CopyCommands_start : coreHalted (commandT false) 0 0 = false ∧
    positions (fun (w : Workgroup) => w.part == 0 && w.core == 0) (commandT false).wgs = [0] ∧
    clockGated (commandT true) 0 0 = false ∧ engineLoad (commandT true) 0 0 < 128 ∧
    (∀ c ∈ (wgAt (commandT true) 0).commands, c.kind = 9 ∧ c.started = true ∧ c.failed = none ∧ c.done = [] ∧ c.ops = [] ∧ c.buf = [] ∧
      readSpans c 0 = [(0, 0, 32)] ∧ copyDone { c with sent := setAdd 0 c.sent } = false) := by decide

/-- s8 to s15 hold a recipe: records of 32 bytes from 0, one hop. -/
def recipeT : Recipe := ⟨0x100, 32, 4, 8, false, 1, 0, 16, 1, 0⟩
def chaseT : State :=
  let q := quadT 0 [(8, 0x100), (10, 32), (11, 0x40008), (12, 0x1000010), (13, 1)] 0 []
  modGroup (world ({ groupT [q] with super := true }) {} {} { recipes := [(2, recipeT)] }) 0 fun gr => modSplit gr 0 fun sp => { sp with qmask := 1, act := 15 }
theorem witness_ChaseWalks : Clear chaseT 0 0 0xB2 2 8 0 ∧ chaseRec (envOf chaseT 0 0 0xB2 2 8 0 0) = some recipeT ∧
    Clear chaseT 0 0 0xB1 4 0 2 ∧ (partAt chaseT 0).recipes.find? (·.1 == 2) = some (2, recipeT) ∧
    3 ≤ missFree chaseT 0 0 :=
  ⟨clear_of_clearB (by decide), by decide, clear_of_clearB (by decide), by decide, by decide⟩
/-- A walk at node 1 of its recipe: its record holds a degree of 1 and a list at 0x200, whose first entry is 5. -/
def hopT (n : Nat) : State :=
  { world { groupT (quadsT 0) with
      reqs := [{ id := 3, what := .walk, lanes := 1, regs := 11 }]
      chases := [⟨3, 0, { recipeT with ncount := n }, 1, 0, 0, true, []⟩] } with
    hbm := [(0, 1), (2, 1), (0x128, 1), (0x131, 2), (0x200, 5), (0x10000, 15), (0x20000, 0xFF)] }
theorem witness_ChaseWalks_hop : let c : Chase := ⟨3, 0, recipeT, 1, 0, 0, true, []⟩
    hopRead (hopT 0) 0 c 0x120 32 = .bytes ([0, 0, 0, 0, 0, 0, 0, 0, 1, 0, 0, 0, 0, 0, 0, 0, 0, 2] ++ List.replicate 14 0) ∧
    hopRead (hopT 0) 0 c 0x128 4 = .bytes [1, 0, 0, 0] ∧ hopRead (hopT 0) 0 c 0x124 4 = .bytes [0, 0, 0, 0] ∧
    hopRead (hopT 0) 0 c 0x130 8 = .bytes [0, 2, 0, 0, 0, 0, 0, 0] ∧ hopRead (hopT 0) 0 c 0x200 4 = .bytes [5, 0, 0, 0] ∧
    hopDue (hopT 0) 0 c {} = true ∧ unperformed (hopT 0) 0 = [] ∧ (partAt (hopT 0) 0).frozen = false ∧ hopRead (hopT 0) 0 c 0x110000000 32 = .bad 1 none ∧
    recipeT.degoff = 8 ∧ recipeT.flagoff = 4 ∧ recipeT.adjoff = 16 := by decide

/-! ### The curve and the register files -/

/-- A grid that admits apertures 1 to 4, movable or not. -/
def moveT (movable : Bool) (sp : Split) : State :=
  let s := world { groupT (quadsT 0) with splits := sp :: List.replicate 8 {} }
  { s with
    grids := [{ wgs := 1, placed := 1, recd := { movable := movable, alow := 1, ahigh := 4 } }]
    clusters := { aper := 1, rail := 1, connected := true, movable := movable } :: List.replicate 11 {}
    rails := [{ aper := 1 }, { aper := 4, free := true }, {}, {}] }
theorem witness_ApertureMoves : Clear (moveT true splitT) 0 0 0x0C 2 1 0 ∧ Clear (moveT true splitT) 0 0 0x0C 2 4 0 ∧
    Clear (moveT false splitT) 0 0 0x0C 2 4 0 ∧ (gridOf (moveT true splitT) 0).recd.movable = true ∧
    (gridOf (moveT true splitT) 0).recd.alow ≤ 1 ∧ 4 ≤ (gridOf (moveT true splitT) 0).recd.ahigh ∧
    (wgOf (moveT true splitT) 0).aper = 1 ∧ (wgOf (moveT true splitT) 0).reserv = none ∧
    aptParked (moveT false splitT) 0 0 = [] ∧ clusterHalted (moveT true splitT) 0 0 = false ∧
    clusterHalted (moveT false splitT) 0 0 = false :=
  ⟨clear_of_clearB (by decide), clear_of_clearB (by decide), clear_of_clearB (by decide), by decide, by decide, by decide,
    by decide, by decide, by decide⟩
/-- The group is parked at APT of aperture 4. -/
def parkedApt : State := moveT true { splitT with st := .atApt, park := some (.apt 2 4) }
theorem witness_ApertureMoves_move : clusterHalted parkedApt 0 0 = false ∧ aptParked parkedApt 0 0 = [(0, 0, 2, 4)] ∧
    wgsOnCluster parkedApt 0 0 = [0] ∧ railFor parkedApt 0 0 4 = some 2 ∧ reached parkedApt 4 0 = true ∧
    (∀ g ∈ runningGroups parkedApt 0, groupParked (groupAt parkedApt g) = false ∨ parkedElsewhere (groupAt parkedApt g) = false) ∧
    (wgQuads parkedApt 0).length ≤ 64 ∧ physCluster parkedApt 0 0 < parkedApt.clusters.length ∧ (wgAt parkedApt 0).reserv = none ∧
    (groupAt parkedApt 0).stopped = false ∧ (groupAt parkedApt 0).storeQ = [] ∧ (groupAt parkedApt 0).reqs = [] := by decide
/-- Two groups are parked at APT of different apertures. -/
def parkedTwo : State :=
  let sp (a : Nat) : Split := { splitT with st := .atApt, park := some (.apt 2 a) }
  { parkedApt with groups := [4, 3].map fun a => { groupT (quadsT 0) with splits := sp a :: List.replicate 8 {} } }
theorem witness_ApertureMoves_refused : clusterHalted parkedTwo 0 0 = false ∧ aptParked parkedTwo 0 0 = [(0, 0, 2, 4), (1, 0, 2, 3)] := by decide
theorem witness_ContextsStopAndResume_quiet : let s := modGroup (moveT true splitT) 0 fun gr => modSplit gr 0 fun sp => { sp with st := .ready }
    (∀ k, k < 8 → coreQuiet s 0 k = true) ∧ (clusterAt s (physCluster s 0 0)).connected = true ∧
    heldAper s 0 0 = (clusterAt s (physCluster s 0 0)).aper := by decide

theorem witness_RegisterFilesGrowAndShrink : (∀ x ∈ [(0x0D, 1, 8, 0), (0x0D, 1, 32, 0), (0x0E, 0, 1, 0)],
    Clear (w0 0) 0 0 x.1 x.2.1 x.2.2.1 x.2.2.2) ∧
    (∀ k ∈ bitsOf (splitAt (groupAt (w0 0) 0) 0).qmask, (quadAt (groupAt (w0 0) 0) k).alloc = 64 ∧
      isPending (groupAt (w0 0) 0) .vec 8 (64 - 8) = false) := ⟨clears (by decide), by decide⟩
def growT : State :=
  world { groupT (quadsT 0) with splits := { splitT with st := .atRgrow, park := some (.rgrow 15 128) } :: List.replicate 8 {} }
theorem witness_RegisterFilesGrowAndShrink_ends : growRoom growT 0 [0, 1] 128 = true ∧
    (groupsOnCore growT 0 0).filter (fun h => groupRuns (groupAt growT h)) = [0] ∧ (splitAt (groupAt growT 0) 0).st = .atRgrow ∧
    (splitAt (groupAt growT 0) 0).park = some (.rgrow 15 128) ∧ coreHalted growT 0 0 = false := by decide
/-- The same group with its quads in one slice, parked at an RGROW to 256 registers. -/
def growFullT : State :=
  modGroup growT 0 fun gr =>
    { modSplit gr 0 fun sp => { sp with park := some (.rgrow 15 256) } with quads := gr.quads.map fun q => { q with slice := 0 } }
theorem witness_RegisterFilesGrowAndShrink_fails : (groupsOnCore growFullT 0 0).filter (fun h => groupRuns (groupAt growFullT h)) = [0] ∧
    coreHalted growFullT 0 0 = false ∧ (∀ sp ∈ (groupAt growFullT 0).splits, sp.valid = true → sp.st = .atRgrow ∧
      sp.park = some (.rgrow 15 256) ∧ growRoom growFullT 0 (bitsOf sp.qmask) 256 = false) := by decide

/-! ### The matrix engine -/

def reservT : Reservation := { rows := 8, shapes := [{ defined := true, fmt := 9, brows := 48, stride := 64 }, {}, {}, {}] }
/-- s0 to s7 hold a reservation record, s8 to s11 a shape record; the grid may hold accumulators. -/
def matrixT (rv : Option Reservation) (macq : Option (Nat × Nat × Reservation)) (mmas : List Mma) : State :=
  let q (k : Nat) : Quad := quadT k [(0, 0x10008), (1, 0x909), (9, 64), (10, 0x901)] 0 []
  let s := world (groupT [q 0, q 1]) { reserv := rv, macq := macq }
  { s with
    grids := [{ wgs := 1, placed := 1, recd := { accrows := 8 } }]
    cores := { mmas := mmas } :: List.replicate 95 {} }
def reservReq : Reservation := { rows := 8 }
theorem witness_ReservationsAndShapes : Clear (matrixT none none []) 0 0 0xB3 2 0 0 ∧ matrixGrid (matrixT none none []) 0 = true ∧
    reservRec (envOf (matrixT none none []) 0 0 0xB3 2 0 0 0) = some reservReq ∧ reservOk (matrixT none none []) 0 reservReq = true ∧
    (wgAt (matrixT none none []) 0).macq = none ∧ (wgAt (matrixT none none []) 0).reserv = none ∧
    (wgAt (matrixT none (some (0, 3, reservReq)) []) 0).macq = some (0, 3, reservReq) ∧ granulesOf reservReq ≤ 256 :=
  ⟨clear_of_clearB (by decide), by decide, by decide, by decide, by decide, by decide, by decide, by decide⟩
theorem witness_ReservationsAndShapes_release : Clear (matrixT none none []) 0 0 0xB4 0 0 0 ∧
    Clear (matrixT (some reservT) none []) 0 0 0xB4 0 0 0 ∧ mmasOf (matrixT (some reservT) none []) 0 = [] ∧
    (wgAt (matrixT (some reservT) none []) 0).commands = [] :=
  ⟨clear_of_clearB (by decide), clear_of_clearB (by decide), by decide, by decide⟩
theorem witness_ReservationsAndShapes_shape : Clear (matrixT (some reservT) none []) 0 0 0xB5 3 8 0 ∧
    (sGet (groupAt (matrixT (some reservT) none []) 0) 0 10).toNat = 9 * 256 + 1 ∧ rowSize 9 = 64 ∧
    0 + (1 - 1) * 64 + 64 ≤ poolEnd (matrixT (some reservT) none []) 0 :=
  ⟨clear_of_clearB (by decide), by decide, by decide, by decide⟩
/-- An MMA whose tile is latched, for row 0. -/
def mmaT : Mma :=
  { id := 4, wg := 0, group := 0, window := 0, shape := { defined := true, fmt := 9, brows := 48, tile := some [] }, reader := 0
    lanes := [⟨0, 0, 0, List.replicate 48 0⟩] }
theorem witness_MatrixStepsAccumulate : Clear (matrixT (some reservT) none []) 0 0 0xB6 0 4 0 ∧
    ((actingLanes (matrixT (some reservT) none []) 0 0 0xB6 4).filter fun l =>
      !(laneAt (groupAt (matrixT (some reservT) none []) 0) l).helper) ≠ [] ∧ (nth {} reservT.shapes 0).defined = true ∧
    (nth {} reservT.shapes 0).brows = kOf reservT.afmt ∧
    scaleBeyond reservT (nth {} reservT.shapes 0) 0 [0, 1, 2, 4, 5, 6] = false ∧ 0 < reservT.windows ∧
    coreKey (matrixT (some reservT) none []) 0 0 < (matrixT (some reservT) none []).cores.length ∧
    acquiresDue (matrixT (some reservT) none []) 0 (activeLanes (matrixT (some reservT) none []) 0 0) = false :=
  ⟨clear_of_clearB (by decide), by decide, by decide, by decide, by decide, by decide, by decide, by decide⟩
theorem witness_MatrixStepsAccumulate_step : (coreAt (matrixT (some reservT) none [mmaT]) 0 0).mmas = [mmaT] ∧
    mmaT.shape.tile = some [] ∧ reservT.err = [] ∧ reservT.poison = [] ∧ scaleReads reservT mmaT = [] ∧
    (mmaT.lanes.map (·.row)).Nodup ∧ mmaT.window < 4 ∧ clockGated (matrixT (some reservT) none [mmaT]) 0 0 = false := by decide
theorem witness_AccumulatorRowsMove : ∀ x ∈ [(0xB7, 0, 12, 12), (0xB8, 16, 0, 3), (0xB9, 0, 16, 3)],
    Clear (matrixT (some reservT) none []) 0 0 x.1 x.2.1 x.2.2.1 x.2.2.2 := clears (by decide)
theorem witness_AccumulatorRowsMove_rows : mmasOf (matrixT (some reservT) none []) 0 = [] ∧ 3 < 4 * reservT.windows ∧
    (((actingLanes (matrixT (some reservT) none []) 0 0 0xB9 16).filter fun l =>
      !(laneAt (groupAt (matrixT (some reservT) none []) 0) l).helper).map
        (tidOf (groupAt (matrixT (some reservT) none []) 0))).Nodup := by decide

/-! ### Launches, messages, peers -/

/-- A launch record at 0x400: one workgroup of one thread at the entry 0x1000, completion record at 0x480. -/
def recordCells : List Host.Cell :=
  [(0x401, 0x10), (0x410, 1), (0x414, 1), (0x418, 1), (0x41C, 1), (0x41E, 8), (0x420, 5), (0x421, 1), (0x422, 7),
   (0x424, 1), (0x426, 1), (0x468, 0x80), (0x469, 4)]
def launchRecT : LaunchRec := { entry := 0x1000, crec := 0x480, slack := List.replicate 8 0 }
/-- s4:2 names the record. -/
def launchT (q : List LaunchEntry) : State :=
  let gr := { groupT [quadT 0 [(4, 0x400)] 0 []] with splits := { splitT with qmask := 1, act := 15 } :: List.replicate 8 {} }
  let s := world gr {} {} { launchQ := q }
  modPart { s with hbm := [(0, 1), (2, 1)] ++ recordCells ++ [(0x10000, 15), (0x20000, 0xFF)] } 0
    fun pt => { pt with cfg := pt.cfg.map fun c => { c with ctxSize := 2 ^ 26 } }
theorem witness_LaunchesEnterTheQueue : Clear (launchT []) 0 0 0x17 1 4 0 ∧ recordFlaw (launchT []) 0 launchRecT = none ∧
    (∀ x ∈ launchRecT.deps, x = 0) ∧ groupAcked (launchT []) 0 = true ∧ clusterPerformed (launchT []) 0 = true :=
  ⟨clear_of_clearB (by decide), by decide, by simp [launchRecT], by decide, by decide⟩
set_option maxRecDepth 4000 in
theorem witness_LaunchesEnterTheQueue_record : submit (envOf (launchT []) 0 0 0x17 1 4 0 0) 0 = .rcd launchRecT := by decide
set_option maxRecDepth 4000 in
theorem witness_LaunchesEnterTheQueue_walks : launchDue (envOf (launchT []) 0 0 0x17 1 4 0 0) 0 = true := by decide
set_option maxRecDepth 4000 in
theorem witness_LaunchesEnterTheQueue_room : unitReady (launchT []) 0 launchRecT.crec 128 = true := by decide
/-- An entry that waits for the record at 0x480, whose STATUS read 1 and is now 0; it has been passed over since 0. -/
def entryT : LaunchEntry :=
  { recd := { launchRecT with deps := [0x480, 0, 0, 0], home := some ⟨.hbm, 0x480⟩ }, seen := [1, 2, 2, 2]
    locs := [some ⟨.hbm, 0x480⟩, none, none, none]
    passed := some 0 }
theorem witness_LaunchesEnterTheQueue_entry : (partAt (launchT [entryT]) 0).launchQ[0]? = some entryT ∧
    readStatus (launchT [entryT]) 0 (nth 0 entryT.recd.deps 0) = some 0 ∧
    readDue (launchT [entryT]) entryT 0 = true ∧ readDue (launchT [entryT]) entryT 1 = false ∧ recordReady (launchT [entryT]) 0 entryT.recd.home = true ∧ (∀ y ∈ entryT.seen, y < 3) ∧
    readStatus (launchT [entryT]) 0 (nth 0 entryT.recd.deps 3) = some 2 := by decide

/-- An entry that is eligible on a machine whose cluster 0 stands empty. -/
def placeT : State :=
  let s := launchT [{ recd := launchRecT }]
  { s with cur := none, groups := [], wgs := [], gangs := [], grids := [] }
theorem witness_PlacedGroupsStart : (partAt placeT 0).hostQ = [] ∧ (partAt placeT 0).msgQ = [] ∧ (partAt placeT 0).frozen = false ∧
    (placeEntry placeT 0 0).isSome = true ∧ 0 < gridSize launchRecT ∧ 1 ≤ launchRecT.gangf ∧ 1 ≤ launchRecT.gangp := by decide
theorem witness_PlacedGroupsStart_eligible : eligible placeT 0 = [0] := by decide

def readyT : State := world { groupT (quadsT 0) with splits := { splitT with st := .ready } :: List.replicate 8 {} }
theorem witness_JetsGoByOrder : (coreSplits readyT 0 0 .issuing).length < 16 ∧ coreHalted readyT 0 0 = false ∧
    clockGated readyT 0 0 = false ∧ each (groupsOnCore readyT 0 0) (fun g s => wake s g) readyT = readyT ∧
    coreSplits readyT 0 0 .ready = [(0, 0)] ∧ columnsFree readyT [] [] (0, 0) = true ∧
    grantedTwice readyT [(0, 0)] (0, 0) = false := by decide

/-- Every lane of the workgroup has exited. -/
def exitedT : State :=
  let gr := groupT (quadsT 0)
  world (each (List.range 8) (fun l gr => modLane gr l fun ln => { ln with exited := true }) gr)
theorem witness_GridsEnd : (wgAt exitedT 0).retired = false ∧ (partAt exitedT 0).frozen = false ∧ wgFinished exitedT 0 = true ∧ wgQuiet exitedT 0 = true ∧
    (gridAt exitedT 0).ended = false ∧ (gridAt exitedT 0).finished + 1 = (gridAt exitedT 0).placed ∧
    (gridAt exitedT 0).placed = (gridAt exitedT 0).wgs ∧ (partAt exitedT 0).confirm.length < 4096 ∧
    recordReady (releaseWg exitedT 0) 0 (gridAt exitedT 0).recd.home = true := by decide
theorem witness_GridsEnd_cancelled : (partAt placeT 0).launchQ.findIdx? (fun x => x.recd.crec == 0x480) = some 0 ∧
    placeT.grids = [] ∧ recordReady placeT 0 launchRecT.home = true ∧ (gridAt (w0 0) 0).recd.crec = 0 ∧ (gridAt (w0 0) 0).ended = false ∧
    (gridAt (w0 0) 0).forced = 0 ∧ (partAt (w0 0) 0).launchQ = [] := by decide

/-- A machine whose handler 0 is at 0x2000, with a waiting message for handler 0 or 16. -/
def messageT (h : Byte) : State :=
  modPart placeT 0 fun pt =>
    { pt with
      launchQ := [], hostQ := [(h :: List.replicate 63 0, 0)], cfg := pt.cfg.map fun c => { c with hht := [(0x2000, 0x66)] } }
theorem witness_MessagesReachHandlers : (partAt (w0 0) 0).cfg ≠ none ∧ (List.replicate 64 (0 : Byte)).length = 64 ∧
    4032 % 64 = 0 ∧ (partAt (w0 0) 0).hostQ.length < 256 ∧ (partAt (messageT 0) 0).frozen = false ∧
    (msgWord (List.replicate 64 (0 : Byte)) 0).toNat < 16 ∧ (msgWord (16 :: List.replicate 63 (0 : Byte)) 0).toNat = 16 ∧
    handlersOf (messageT 0) 0 false < 4 := by decide
theorem witness_MessagesReachHandlers_spawn : (spawnHandler 0 1 false true 0x2000
    (launchHandlerSeed 0x66 (partAt (messageT 0) 0).hostQ) (messageT 0)).isSome = true := by decide
/-- Message handler 1 is at 0x3000: its table lies at 0x500. -/
def activeT : State :=
  let s := modPart placeT 0 fun pt =>
    { pt with
      launchQ := [], msgQ := [{ handler := 1, payload := [], arg := 0, source := 255, wgid := 0, tid := 0 }]
      cfg := pt.cfg.map fun c => { c with mht := 0x500 } }
  { s with hbm := [(0, 1), (2, 1), (0x519, 0x30), (0x10000, 15), (0x20000, 0xFF)] }
theorem witness_MessagesReachHandlers_active : messageHandler activeT 0 1 = (0x3000, 0, false) ∧ messageHandler activeT 0 2 = (0, 0, false) ∧
    handlersOf activeT 0 true < 4 ∧
    (spawnHandler 0 1 true false 0x3000 (messageHandlerSeed 0 1 (partAt activeT 0).msgQ) activeT).isSome = true := by decide

/-- v8 names the own node. -/
def sendT : State := world (groupT [quadT 0 [] 0 [(8, 255)], quadT 1 [] 0 [(8, 255)]])
def sendLane : State :=
  modGroup sendT 0 fun gr => modSplit gr 0 fun sp => { sp with act := 0x11 }
theorem witness_MessagesAndPeers : Clear sendLane 0 0 0xC0 3 16 8 ∧
    (∀ l ∈ actingLanes sendLane 0 0 0xC0 16, (laneAt (groupAt sendLane 0) l).helper = false ∧
      vGet (groupAt sendLane 0) l 8 = 255) ∧ hasCredit sendLane 0 255 2 = true ∧ groupAcked sendLane 0 = true ∧
    0 < sendLane.parts.length :=
  ⟨clear_of_clearB (by decide), by decide, by decide, by decide, by decide⟩
def msgT : Msg := { handler := 3, payload := [], arg := 0, source := 255, wgid := 0, tid := 0 }
theorem witness_MessagesAndPeers_arrival : arriving [⟨0, 255, msgT, {}, 0⟩] msgT = some 0 ∧ { msgT with source := 4 }.source < 255 ∧
    anyPort (modPart (w0 0) 0 fun pt => { pt with cfg := pt.cfg.map fun c => { c with ports := 1 } }) 0 = true := by decide
theorem witness_MessagesAndPeers_peer : peerEntry { w0 0 with hbm := [(0, 1), (2, 1), (8, 5), (10, 1), (0x10000, 15), (0x20000, 0xFF)] }
    0 0 = some (5, true) ∧ (partAt (w0 0) 0).cfg ≠ none := by decide
/-- A load of peer 3 has no result yet. -/
theorem witness_MessagesAndPeers_load : loadSpan { loadT with what := .mem ⟨.peer 3, 64⟩ 4 false } = some (⟨.peer (0 * 256 + 3), 64⟩, 4) ∧
    loadT.data = none := by decide
theorem witness_MessagesAndPeers_replica : let fwd : List (Nat × Nat × List Byte) := [(255, 64, [1, 2])]
    fwd.find? (·.1 == 255) = some (255, 64, [1, 2]) ∧ 64 + 2 ≤ 2 ^ 52 := by decide

/-! ### The module -/

theorem witness_ScansRotate : (∀ c ∈ State.reset.cores, c.forward = false) ∧
    (let s : State := { w0 0 with groups := [], cores := { draining := true, scanning := true } :: List.replicate 95 {} }
     servesAs s 0 = some (0, 0) ∧ (nth {} s.cores 0).draining = true ∧ (nth {} s.cores 0).scanning = true ∧
     coreQuiet s 0 0 = true ∧ (partAt s 0).finals = [] ∧ (clusterAt s 0).spares ≠ 0) := by decide

theorem witness_LimitsAndDroop : 0 < State.reset.clusters.length ∧ State.reset.obs.log.length < 1048576 ∧
    (let s : State := { w0 0 with rails := [{ tripped := true }] }; (nth {} s.rails 0).tripped = true ∧ (clusterAt s (physCluster s 0 0)).rail = 1) ∧ 11 < State.reset.hbmStacks.length ∧
    (let tab : List Droop := [⟨3, 2, 0⟩]; ∃ d ∈ tab, d.sig = 3 ∧ d.conf = 2) ∧ (3 : Nat) < 4 := by decide

theorem witness_ControlPageRegisters : 11 < State.reset.parts.length ∧ (partAt State.reset 11).energy < 2 ^ 64 := by decide

/-- A configuration that R294 admits on the machine after reset, and one whose ceiling is 0. -/
def configT : PartCfg :=
  { ctxBase := 2 ^ 25, ctxSize := 2 ^ 25, hbmq := 0x20000, capq := 0x260000, mht := 0x1800000, peers := 0x1810000, repl := 0x1820000 }
/-- The root table in frame 0 and its table in frame 1 map frames 0 to 4095 for supervisor mode; the bitmap at 0x20000 owns frames 0
to 1023, in which every table of configT lies. -/
def tabledT : State :=
  { State.reset with hbm := [(0, 1), (2, 1), (0x10000, 11)] ++ (List.range 128).map fun i => (0x20000 + i, 0xFF) }
theorem witness_PartitionsReloadAndReset_record : cfgOk tabledT 11 configT = true := by decide +kernel
theorem witness_PartitionsReloadAndReset : cfgOk tabledT 0 { configT with ceil := 0 } = false ∧
    leavingClusters tabledT 11 configT = [] ∧ tabledT.off = false ∧ tabledT.isReady = true ∧ (partAt tabledT 11).fenceAt = none ∧
    (partAt tabledT 11).grhcnt = 0 ∧ listFrames tabledT 0 0 = [] := by decide
theorem witness_PartitionsReloadAndReset_fence : (partAt (modPart tabledT 11 fun pt => { pt with fenceAt := some 5 }) 11).fenceAt = some 5 ∧
    translatedBefore tabledT 11 5 = false := by decide
theorem witness_PartitionsReloadAndReset_frozen :
    let s := modPart readyT 0 fun pt => { pt with frozen := true }
    (partAt s 0).cfg ≠ none ∧ (∀ g ∈ residentGroups s 0, ∀ sp ∈ (groupAt s g).splits, sp.st ≠ .issuing) := by decide

theorem witness_RailsAndLinks : onRail State.reset 4 = [] ∧ onRail (moveT true splitT) 1 ≠ [] ∧ (nth {} State.reset.rails 3).aper = 5 ∧
    (nth {} State.reset.rails 3).boundAper = 0 := by decide
/-- Link 47 in a state, idle since 0 on a machine at 100,000 ns, with parking enabled. -/
def linkT (st : LinkState) : State :=
  { State.reset with now := 100000, links := List.replicate 47 {} ++ [{ st := st, parken := true, wakeq := 0, active := 3 }] }
theorem witness_RailsAndLinks_links : 47 < (linkT .full).links.length ∧ linkQueue (linkT .full) 47 = [] ∧
    (linkAt (linkT .full) 47).enable = true ∧ (linkAt (linkT .full) 47).since + parkholdNs (linkAt (linkT .full) 47) ≤ 100000 ∧
    (linkAt (linkT .full) 47).acked = true ∧ (linkAt (modLink (linkT .full) 47 fun l => { l with acked := false }) 47).acked = false ∧
    (linkAt (linkT .waking) 47).st = .waking ∧ (linkAt (linkT .parked) 47).st = .parked := by decide
/-- Ring 15 of fibre end 47 has stood at its limit since 0 on a machine at 100,000 ns. -/
def ringT (spare : Option Nat) : State :=
  { State.reset with
    now := 100000
    fibres := List.replicate 47 {} ++
      [{ codes := List.replicate 15 0 ++ [4095, 0], spare := spare, stuck := List.replicate 15 none ++ [some 0, none] }] }
theorem witness_RailsAndLinks_rings : 47 < State.reset.fibres.length ∧ 47 / 2 * 2 + 1 < (ringT none).links.length ∧
    (∀ spare ∈ [none, some 0], nth none (nth {} (ringT spare).fibres 47).stuck 15 = some 0 ∧ 0 + 100000 ≤ (ringT spare).now ∧
      (nth {} (ringT spare).fibres 47).spare = spare) ∧ (linkAt (ringT none) 46).acked = true ∧ (linkAt (ringT none) 47).acked = true ∧
    (nth {} (ringT none).fibres 47).codes.foldl (· + ·) 0 ≤ 40950 ∧ (∀ c ∈ (nth {} (ringT none).fibres 47).codes, c ≤ 4095) := by
  decide
/-- A new interval of bandwidth has begun; and it has not (R301). -/
theorem witness_PartitionsReloadAndReset_interval : (ringT none).interval < (ringT none).now / 1000 ∧
    State.reset.now / 1000 ≤ State.reset.interval := by decide

theorem witness_ObservatoryAnswers : hears State.reset .fabric true = true ∧ hears State.reset .host false = true ∧
    State.reset.obs.owner = none ∧ Claimant.host ≠ .board ∧ (List.replicate 32 (0 : Byte)).length = 32 := by decide
/-- The host owns the module and has offered it to the board; an image runs in trial since 0. -/
def ownedT : State :=
  { State.reset with obs := { owner := some .host, offer := some (.board, 5), trial := some 0, log := [⟨7, 0, 0, 0, 4, 0⟩] } }
theorem witness_ObservatoryAnswers_owned : hears ownedT .board true = true ∧ ownedT.obs.offer = some (.board, 5) ∧ ownedT.now ≤ 5 ∧
    ownedT.obs.offer.map (·.1) ≠ some .fabric ∧ hears ownedT .fabric true = true ∧ ownedT.obs.log.find? (·.seq == 7) = some ⟨7, 0, 0, 0, 4, 0⟩ ∧ (∀ r ∈ ownedT.obs.log, r.seq ≠ 8) ∧
    11 < ownedT.clusters.length ∧ 4 ≤ ownedT.rails.length := by decide
/-- The host's and the board's claims carry one timestamp, as in the worked case of R354. -/
def claimedT : State := { State.reset with now := 7300000012, obs := { claims := [.board, .host] } }
theorem witness_ObservatoryAnswers_claims : claimedT.now < 7300000015 ∧ Claimant.host ∈ claimedT.obs.claims ∧
    (∀ c ∈ claimedT.obs.claims, sourceOf .host ≤ sourceOf c) ∧ claimedT.obs.answers.length = 3 ∧ claimedT.obs.log.length < 1048576 := by decide
theorem test_claims_settle : (advance claimedT 7300000015).obs.owner = some .host ∧
    (advance claimedT 7300000015).obs.answers = [messages 0 [], messages 1 [], []] := by decide
/-- The Observatory's quad stands at a store of v4 to the address in v2 and v3 (R351). -/
def firmwareT : State :=
  let lane : Lane := { v := [(2, 0x1000), (4, 7)] }
  { State.reset with obs :=
    { cpu := { oneGroup 0 (lineOfWords 0x82040200 0) with super := true, quads := [{ alloc := 64, lanes := List.replicate 4 lane }] }
      unit := { groups := [0] } } }
set_option maxRecDepth 16000 in
theorem test_firmware_stores : (firmwareStep 0 firmwareT).obs.priv = [(0x1000, 7)] ∧
    (splitAt (firmwareStep 0 firmwareT).obs.cpu 0).pc = 20 := by decide +kernel
theorem witness_ImagesBoot_trial : ownedT.obs.trial = some 0 ∧ ownedT.now < 0 + 60000000000 ∧ ownedT.obs.owner = some .host := by decide
theorem witness_ImagesBoot : State.reset.obs.recovery = false ∧ (∀ r ∈ State.reset.obs.log, r.boot ≤ State.reset.obs.boot) ∧
    State.reset.obs.log.length + 48 ≤ 1048576 ∧ hears State.reset .board false = true ∧
    (some 0 : Option Nat) = some 0 ∧ 0 + 60000000000 ≤ 60000000000 ∧ 59999999999 < 0 + 60000000000 := by decide

theorem witness_DecodeOfEncode : (Instr.bra 0 0 0 0xFFFFFFFE).wf = true ∧
    encode (.bra 0 0 0 0xFFFFFFFE) = some [0x01000000, 0xFFFFFFFE] ∧
    decode ([0x02, 0x01, 0x03, 0x20] : List Byte) = .ok (.add 3 1 2, []) := ⟨by decide, by decide, rfl⟩
/-- The split of withFetchWord's state may issue, holds its line and waits for nothing; an event may stand on the agenda. -/
theorem witness_StepsRunWhatDecodes : let s := State.reset.withFetchWord 32 0x20030102
    s.agenda = [.issue 0 0] ∧ mayIssue s 0 0 = true ∧ lineHere (splitAt (groupAt s 0) 0) = true ∧
    (splitAt (groupAt s 0) 0).arrive = [] ∧ slotOf (splitAt (groupAt s 0) 0).pc ≤ hdrLast (lineHeader (splitAt (groupAt s 0) 0).line) ∧
    stallsLong s 0 0 = false ∧ (splitAt (groupAt s 0) 0).owed = [] ∧
    decode ((splitAt (groupAt s 0) 0).line.drop 16) = .ok (.add 3 1 2, List.replicate 108 0) ∧
    waits (splitAt (groupAt s 0) 0) = false ∧ lineHere (splitAt (groupAt lineT 0) 0) = false ∧ isEvent .transitWindow = true :=
  ⟨by decide, by decide, by decide, by decide, by decide, by decide, by decide, rfl, by decide, by decide, by decide⟩
theorem witness_StepsKeepMemoriesCanonical : memoriesWf (w0 0) = true ∧
    step { w0 0 with agenda := [.evict 0 0] } = .next { w0 0 with tlb := [], tick := 1, cur := none } := ⟨by decide, rfl⟩

/-! ## Words decode -/

/-- The instruction that a word, with the literal word after it, decodes to. -/
def read (w : Word) (lit : Word := 0) : Option Instr :=
  match decode (bytesOfWord w ++ bytesOfWord lit) with
  | .ok x => some x.1
  | .error _ => none

theorem test_bytes_of_word : bytesOfWord 0x20040203 = [0x03, 0x02, 0x04, 0x20] := by decide

/-- Control flow, modes and traps: words of Table 3.2, the fields those of the examples of the spec where it gives one. -/
theorem test_decode_control :
    read 0x0004_0203 = some (.nop 0x04 0x02 0x03) ∧
    read 0x0100_0000 0xFFFFFFFE = some (.bra 0x00 0x00 0x00 0xFFFFFFFE) ∧
    read 0x0240_0A0D 0xFFFFFFFE = some (.brs 0x40 0x0A 0x0D 0xFFFFFFFE) ∧
    read 0x0301_0000 0xFFFFFFFE = some (.brd 0x01 0x00 0x00 0xFFFFFFFE) ∧
    read 0x0404_0203 = some (.join 0x04 0x02 0x03) ∧
    read 0x0504_0203 0xFFFFFFFE = some (.brk 0x04 0x02 0x03 0xFFFFFFFE) ∧
    read 0x0603_080A = some (.jt 0x03 0x08 0x0A) ∧
    read 0x073C_0000 0xFFFFFFFE = some (.call 0x3C 0x00 0x00 0xFFFFFFFE) ∧
    read 0x083C_0800 = some (.calli 0x3C 0x08 0x00) ∧
    read 0x0900_3C00 = some (.ret 0x00 0x3C 0x00) ∧
    read 0x0A04_0203 = some (.exit 0x04 0x02 0x03) ∧
    read 0x0B04_0203 = some (.demote 0x04 0x02 0x03) ∧
    read 0x0C01_0500 = some (.apt 0x01 0x05 0x00) ∧
    read 0x0D02_0600 = some (.rgrow 0x02 0x06 0x00) ∧
    read 0x0E00_0400 = some (.rshrk 0x00 0x04 0x00) ∧
    read 0x0F04_0203 = some (.idem 0x04 0x02 0x03) ∧
    read 0x1060_0000 = some (.mode 0x60 0x00 0x00) ∧
    read 0x1109_0860 = some (.modx 0x09 0x08 0x60) ∧
    read 0x1200_0011 = some (.grd 0x00 0x00 0x11) ∧
    read 0x1300_0012 = some (.trap 0x00 0x00 0x12) ∧
    read 0x1400_0000 = some (.rett 0x00 0x00 0x00) ∧
    read 0x1504_0001 = some (.gets 0x04 0x00 0x01) ∧
    read 0x1611_0004 = some (.sets 0x11 0x00 0x04) ∧
    read 0x1701_0400 = some (.launch 0x01 0x04 0x00) ∧
    read 0x1800_0800 = some (.tlbi 0x00 0x08 0x00) := by decide

/-- Integer, logic and immediates: words of Table 3.2, the fields those of the examples of the spec where it gives one. -/
theorem test_decode_integer :
    read 0x2004_0203 = some (.add 0x04 0x02 0x03) ∧
    read 0x2104_0203 = some (.sub 0x04 0x02 0x03) ∧
    read 0x2204_0203 = some (.mul 0x04 0x02 0x03) ∧
    read 0x2304_0203 = some (.mulh 0x04 0x02 0x03) ∧
    read 0x2404_0203 = some (.mad 0x04 0x02 0x03) ∧
    read 0x2504_0203 = some (.min 0x04 0x02 0x03) ∧
    read 0x2604_0203 = some (.max 0x04 0x02 0x03) ∧
    read 0x2704_0203 = some (.and 0x04 0x02 0x03) ∧
    read 0x2804_0203 = some (.or 0x04 0x02 0x03) ∧
    read 0x2904_0203 = some (.xor 0x04 0x02 0x03) ∧
    read 0x2A04_0203 = some (.andn 0x04 0x02 0x03) ∧
    read 0x2B04_0203 = some (.shl 0x04 0x02 0x03) ∧
    read 0x2C04_0203 = some (.shr 0x04 0x02 0x03) ∧
    read 0x2D04_0203 = some (.sar 0x04 0x02 0x03) ∧
    read 0x2E04_0203 = some (.bfe 0x04 0x02 0x03) ∧
    read 0x2F04_0203 = some (.bfi 0x04 0x02 0x03) ∧
    read 0x3004_0203 = some (.popc 0x04 0x02 0x03) ∧
    read 0x3104_0203 = some (.clz 0x04 0x02 0x03) ∧
    read 0x3204_0203 = some (.brev 0x04 0x02 0x03) ∧
    read 0x3305_050D = some (.sel 0x05 0x05 0x0D) ∧
    read 0x3421_0405 = some (.cmp 0x21 0x04 0x05) ∧
    read 0x3502_0201 = some (.addi 0x02 0x02 0x01) ∧
    read 0x3604_0401 = some (.shli 0x04 0x04 0x01) ∧
    read 0x3702_0201 = some (.shri 0x02 0x02 0x01) ∧
    read 0x3804_0203 = some (.sari 0x04 0x02 0x03) ∧
    read 0x3904_0203 = some (.mov 0x04 0x02 0x03) ∧
    read 0x3A09_0003 = some (.movi 0x09 0x00 0x03) ∧
    read 0x3B04_0203 = some (.movh 0x04 0x02 0x03) ∧
    read 0x3C11_0000 0xFFFFFFFE = some (.lit 0x11 0x00 0x00 0xFFFFFFFE) ∧
    read 0x3D14_0808 = some (.lea 0x14 0x08 0x08) ∧
    read 0x3E04_0203 = some (.addx 0x04 0x02 0x03) := by decide

/-- Floating point: words of Table 3.2, the fields those of the examples of the spec where it gives one. -/
theorem test_decode_float :
    read 0x4004_0203 = some (.fadd 0x04 0x02 0x03) ∧
    read 0x4104_0203 = some (.fsub 0x04 0x02 0x03) ∧
    read 0x4204_0203 = some (.fmul 0x04 0x02 0x03) ∧
    read 0x4304_0203 = some (.fma 0x04 0x02 0x03) ∧
    read 0x440B_0A11 = some (.fnma 0x0B 0x0A 0x11) ∧
    read 0x4504_0203 = some (.fmin 0x04 0x02 0x03) ∧
    read 0x460D_0D0E = some (.fmax 0x0D 0x0D 0x0E) ∧
    read 0x47B2_0606 = some (.fcmp 0xB2 0x06 0x06) ∧
    read 0x4805_0400 = some (.rsq 0x05 0x04 0x00) ∧
    read 0x490C_0D00 = some (.rcp 0x0C 0x0D 0x00) ∧
    read 0x4A04_0203 = some (.ex2 0x04 0x02 0x03) ∧
    read 0x4B04_0203 = some (.lg2 0x04 0x02 0x03) ∧
    read 0x4C04_0203 = some (.frnd 0x04 0x02 0x03) ∧
    read 0x4D04_0203 = some (.fcls 0x04 0x02 0x03) ∧
    read 0x4E06_0509 = some (.cvt 0x06 0x05 0x09) ∧
    read 0x4F04_0203 = some (.cvtn 0x04 0x02 0x03) ∧
    read 0x5004_0203 = some (.cvtw 0x04 0x02 0x03) ∧
    read 0x5106_0203 = some (.twos 0x06 0x02 0x03) := by decide

/-- Sequencer: words of Table 3.2, the fields those of the examples of the spec where it gives one. -/
theorem test_decode_sequencer :
    read 0x5804_0203 = some (.sadd 0x04 0x02 0x03) ∧
    read 0x590A_0A0B = some (.ssub 0x0A 0x0A 0x0B) ∧
    read 0x5A04_0203 = some (.smul 0x04 0x02 0x03) ∧
    read 0x5B04_0203 = some (.sand 0x04 0x02 0x03) ∧
    read 0x5C04_0203 = some (.sor 0x04 0x02 0x03) ∧
    read 0x5D04_0203 = some (.sxor 0x04 0x02 0x03) ∧
    read 0x5E15_140F = some (.sshl 0x15 0x14 0x0F) ∧
    read 0x5F04_0203 = some (.sshr 0x04 0x02 0x03) ∧
    read 0x6004_0203 = some (.scmp 0x04 0x02 0x03) ∧
    read 0x6104_0203 = some (.smov 0x04 0x02 0x03) ∧
    read 0x620A_0008 = some (.smovi 0x0A 0x00 0x08) ∧
    read 0x6304_0203 0xFFFFFFFE = some (.slit 0x04 0x02 0x03 0xFFFFFFFE) ∧
    read 0x6404_040C = some (.saddx 0x04 0x04 0x0C) ∧
    read 0x6504_0000 = some (.sld 0x04 0x00 0x00) ∧
    read 0x6609_0C00 = some (.sst 0x09 0x0C 0x00) ∧
    read 0x6707_2800 = some (.bcast 0x07 0x28 0x00) ∧
    read 0x6815_0000 = some (.rdln 0x15 0x00 0x00) := by decide

/-- Exchange: words of Table 3.2, the fields those of the examples of the spec where it gives one. -/
theorem test_decode_exchange :
    read 0x7003_02B1 = some (.qswz 0x03 0x02 0xB1) ∧
    read 0x7104_0203 = some (.shfl 0x04 0x02 0x03) ∧
    read 0x7204_0203 = some (.shfx 0x04 0x02 0x03) ∧
    read 0x7303_0201 = some (.shup 0x03 0x02 0x01) ∧
    read 0x7414_0100 = some (.vote 0x14 0x01 0x00) ∧
    read 0x7502_0101 = some (.vtst 0x02 0x01 0x01) := by decide

/-- Memory: words of Table 3.2, the fields those of the examples of the spec where it gives one. -/
theorem test_decode_memory :
    read 0x8004_0210 = some (.ld 0x04 0x02 0x10) ∧
    read 0x8102_0401 = some (.ldx 0x02 0x04 0x01) ∧
    read 0x8204_0200 = some (.st 0x04 0x02 0x00) ∧
    read 0x8302_0401 = some (.stx 0x02 0x04 0x01) ∧
    read 0x8403_0700 = some (.ldp 0x03 0x07 0x00) ∧
    read 0x8502_0600 = some (.stp 0x02 0x06 0x00) ∧
    read 0x8604_0209 = some (.ldv 0x04 0x02 0x09) ∧
    read 0x8700_0240 = some (.pref 0x00 0x02 0x40) ∧
    read 0x8800_0002 = some (.fence 0x00 0x00 0x02) := by decide

/-- Atomics: words of Table 3.2, the fields those of the examples of the spec where it gives one. -/
theorem test_decode_atomics :
    read 0x9014_0203 = some (.aadd 0x14 0x02 0x03) ∧
    read 0x9104_0203 = some (.amin 0x04 0x02 0x03) ∧
    read 0x9204_0203 = some (.amax 0x04 0x02 0x03) ∧
    read 0x9304_0203 = some (.aand 0x04 0x02 0x03) ∧
    read 0x9404_0203 = some (.aor 0x04 0x02 0x03) ∧
    read 0x9504_0203 = some (.axor 0x04 0x02 0x03) ∧
    read 0x9604_0203 = some (.axch 0x04 0x02 0x03) ∧
    read 0x9714_0206 = some (.acas 0x14 0x02 0x06) ∧
    read 0x9804_0203 = some (.afadd 0x04 0x02 0x03) ∧
    read 0x99FF_0409 = some (.redc 0xFF 0x04 0x09) ∧
    read 0x9A08_0400 = some (.cprd 0x08 0x04 0x00) ∧
    read 0x9B0C_0409 = some (.redx 0x0C 0x04 0x09) := by decide

/-- Synchronisation: words of Table 3.2, the fields those of the examples of the spec where it gives one. -/
theorem test_decode_synchronisation :
    read 0xA000_1000 = some (.bar 0x00 0x10 0x00) ∧
    read 0xA100_1000 = some (.gbar 0x00 0x10 0x00) ∧
    read 0xA200_181A = some (.waita 0x00 0x18 0x1A) ∧
    read 0xA301_1E00 = some (.qdef 0x01 0x1E 0x00) ∧
    read 0xA401_2800 = some (.push 0x01 0x28 0x00) ∧
    read 0xA528_0100 = some (.pop 0x28 0x01 0x00) ∧
    read 0xA603_2801 = some (.pushn 0x03 0x28 0x01) ∧
    read 0xA728_0103 = some (.popn 0x28 0x01 0x03) ∧
    read 0xA802_0900 = some (.gres 0x02 0x09 0x00) := by decide

/-- Engines and matrix: words of Table 3.2, the fields those of the examples of the spec where it gives one. -/
theorem test_decode_engines :
    read 0xB000_1000 = some (.copy 0x00 0x10 0x00) ∧
    read 0xB114_0203 = some (.chase 0x14 0x02 0x03) ∧
    read 0xB200_0800 = some (.chdef 0x00 0x08 0x00) ∧
    read 0xB301_0800 = some (.macq 0x01 0x08 0x00) ∧
    read 0xB404_0203 = some (.mrel 0x04 0x02 0x03) ∧
    read 0xB500_1000 = some (.mshp 0x00 0x10 0x00) ∧
    read 0xB600_0800 = some (.mma 0x00 0x08 0x00) ∧
    read 0xB700_1415 = some (.mzero 0x00 0x14 0x15) ∧
    read 0xB828_0000 = some (.mrd 0x28 0x00 0x00) ∧
    read 0xB900_1803 = some (.mwr 0x00 0x18 0x03) := by decide

/-- Network and generations: words of Table 3.2, the fields those of the examples of the spec where it gives one. -/
theorem test_decode_network :
    read 0xC003_0802 = some (.amsg 0x03 0x08 0x02) ∧
    read 0xC101_0900 = some (.slk 0x01 0x09 0x00) ∧
    read 0xC201_1415 = some (.circ 0x01 0x14 0x15) ∧
    read 0xC301_0000 = some (.crel 0x01 0x00 0x00) ∧
    read 0xC409_0000 = some (.snap 0x09 0x00 0x00) ∧
    read 0xC514_0900 = some (.genq 0x14 0x09 0x00) ∧
    read 0xC600_0900 = some (.grel 0x00 0x09 0x00) := by decide

/-- 0x1E is unassigned (R34); a literal that is cut off is refused. -/
theorem test_decode_unassigned : read 0x1E00_0000 = some (.unassignedOpcode 0x1E00_0000) ∧
    (match decode [0, 0, 4, 0x3C, 1, 2] with | .ok _ => none | .error r => some r) = some .truncatedLiteral := by decide
theorem test_decodeTableWord : decodeTableWord 32 0x2104_0203 = some (.sub 4 2 3) ∧
    decodeTableWord 64 0x0000_0012_0100_0000 = some (.bra 0 0 0 0x12) ∧ decodeTableWord 32 0x0100_0000 = some (.bra 0 0 0 0) := by decide

/-! ## Ill-formed instructions are refused -/

/-- Fields of R31: a byte that must be zero, an immediate, s registers, a predicate, a condition, GRD's bits, a format. -/
theorem test_wf_fields : (Instr.nop 0 0 0).wf = true ∧ (Instr.nop 1 0 0).wf = false ∧ (Instr.apt 1 7 0).wf = true ∧
    (Instr.apt 1 8 0).wf = false ∧ (Instr.sadd 64 2 3).wf = false ∧ (Instr.modx 254 2 1).wf = false ∧ (Instr.modx 255 2 1).wf = true ∧
    (Instr.vote 4 16 0).wf = false ∧ (Instr.waita 1 4 5).wf = false ∧ (Instr.grd 0 0 0x20).wf = false ∧ (Instr.cvt 3 1 12).wf = false ∧
    (Instr.cvt 3 1 15).wf = false ∧ (Instr.cvtw 4 1 12).wf = true ∧ (Instr.cvtw 4 1 15).wf = false := by decide
/-- GETS and SETS (R28, R255). -/
theorem test_wf_special : (Instr.gets 64 1 0).wf = false ∧ (Instr.gets 64 0 0).wf = true ∧ (Instr.gets 3 2 0).wf = false ∧
    (Instr.gets 3 4 17).wf = false ∧ (Instr.gets 3 2 17).wf = true ∧ (Instr.gets 3 0 22).wf = false ∧ (Instr.sets 16 0 4).wf = false ∧
    (Instr.sets 17 1 4).wf = false ∧ (Instr.sets 18 0 4).wf = false ∧ (Instr.sets 17 2 4).wf = false ∧ (Instr.sets 16 1 64).wf = false ∧
    (Instr.sets 16 1 63).wf = true := by decide
/-- Bases of pairs and runs (R10, R32). -/
theorem test_wf_bases : (Instr.lea 20 8 8).wf = true ∧ (Instr.lea 21 8 8).wf = false ∧ (Instr.lea 20 9 8).wf = false ∧
    (Instr.amsg 3 8 2).wf = true ∧ (Instr.amsg 3 9 2).wf = false ∧ (Instr.mma 0 250 4).wf = false ∧ (Instr.copy 0 48 0).wf = true ∧
    (Instr.copy 0 56 0).wf = false ∧ (Instr.redc 253 4 9).wf = false ∧ (Instr.redc 255 4 9).wf = true := by decide
/-- An unassigned opcode is no other instruction (R34). -/
theorem test_wf_unassigned : (Instr.unassignedOpcode 0x1E00_0000).wf = true ∧ (Instr.unassignedOpcode 0x2004_0203).wf = false := by decide
/-- Numbers of partitions, cores, entries, slices, stacks, dies, rails, clusters, links, rings. -/
theorem test_wf_events : (Instr.jetGrant 12 0).wf = false ∧ (Instr.jetGrant 0 96).wf = false ∧ (Instr.fetchLine 0 9).wf = false ∧
    (Instr.sliceApply 48).wf = false ∧ (Instr.scan 96).wf = false ∧ (Instr.hbmTrip 12 0).wf = false ∧ (Instr.coreThermal 4 0).wf = false ∧
    (Instr.railTrip 0 0).wf = false ∧ (Instr.railTrip 5 0).wf = false ∧ (Instr.droopDetection 12 0).wf = false ∧
    (Instr.railSettled 0).wf = false ∧ (Instr.linkPark 48).wf = false ∧ (Instr.cut 12).wf = false ∧ (Instr.ringSaturation 48 0).wf = false ∧
    (Instr.ringSaturation 0 17).wf = false ∧ (Instr.jetGrant 11 95).wf = true := by decide

/-! ## Single instructions -/

/-- The state after one instruction, or the same state where it stops. -/
def after (s : State) (i : Instr) : State := match exec i s with | .next t => t | _ => s
/-- One quad whose lane 0 holds two vector registers v2 and v3, mode word m. -/
def pairT (m v2 v3 : Word) : State := world (groupT [quadT 0 [] m [(2, v2), (3, v3)], quadT 1 [] m []])
def reg (s : State) (l r : Nat) : Word := vGet (groupAt s 0) l r
def flags (s : State) (l : Nat) : Word := (laneAt (groupAt s 0) l).fflags
/-- What lane 0 has in v4 after an instruction on v2 and v3, and its flags. -/
def lane0 (m v2 v3 : Word) (i : Instr) : Word × Word := let s := after (pairT m v2 v3) i; (reg s 0 4, flags s 0)
def i16x2 : Word := 2 * 32
def u32 : Word := 1 * 32
def i8x4 : Word := 4 * 32
def f32 : Word := 6 * 32
def sat : Word := 4096

set_option maxRecDepth 16000 in
/-- The worked case after R64. -/
theorem test_sub_wraps : lane0 i16x2 0x80000005 0x00010007 (.sub 4 2 3) = (0x7FFFFFFE, 0) := by decide
set_option maxRecDepth 16000 in
theorem test_sub_saturates : lane0 (i16x2 + sat) 0x80000005 0x00010007 (.sub 4 2 3) = (0x8000FFFE, 32) := by decide
set_option maxRecDepth 16000 in
/-- The example of R39. -/
theorem test_add_i8x4 : lane0 (i8x4 + sat) 0x7F7F0180 0x01010180 (.add 4 2 3) = (0x7F7F0280, 32) ∧
    lane0 i8x4 0x7F7F0180 0x01010180 (.add 4 2 3) = (0x80800200, 0) := by decide
set_option maxRecDepth 16000 in
/-- The example of R64: 0x10000 × 0x10000 + 5 clamps. -/
theorem test_mad_saturates :
    (let s := after (world (groupT [quadT 0 [] (u32 + sat) [(2, 0x10000), (3, 0x10000), (4, 5)], quadT 1 [] 0 []])) (.mad 4 2 3)
     (reg s 0 4, flags s 0)) = (0xFFFFFFFF, 32) := by decide
set_option maxRecDepth 16000 in
/-- The example of R67. -/
theorem test_bfe : (lane0 0 0x00ABCD00 0x0C08 (.bfe 4 2 3)).1 = 0xFFFFFBCD ∧ (lane0 u32 0x00ABCD00 0x0C08 (.bfe 4 2 3)).1 = 0x0BCD := by
  decide
set_option maxRecDepth 16000 in
/-- Shifts (R66): a count of the width; the top bit whatever the signedness. -/
theorem test_shifts : (lane0 u32 0x80000001 32 (.shr 4 2 3)).1 = 0 ∧ (lane0 u32 0x80000001 1 (.sar 4 2 3)).1 = 0xC0000000 ∧
    lane0 (u32 + sat) 0x80000001 1 (.shl 4 2 3) = (0xFFFFFFFF, 32) := by decide
/-- R73: movi v5, 0x3456 then movh v5, 0x0012. -/
theorem test_movi_movh : reg (after (w0 0) (.movi 5 0xFF 0xFF)) 0 5 = 0xFFFFFFFF ∧
    reg (after (after (w0 0) (.movi 5 0x34 0x56)) (.movh 5 0x00 0x12)) 0 5 = 0x00123456 := by decide
set_option maxRecDepth 16000 in
/-- R69: the guard selects; p1 is 1 in lane 0 and 0 in lane 1. -/
theorem test_sel : (let s := after (w0 1) (.sel 4 1 2); (reg s 0 4, reg s 1 4)) = (6, 3) := by decide
/-- R71: a write to p0 is discarded; guard lanes only. -/
theorem test_cmp : pGet (groupAt (after (w0 0) (.cmp 0x22 2 1)) 0) 0 2 = true ∧ pGet (groupAt (after (w0 0) (.cmp 0x40 2 1)) 0) 0 0 = true := by
  decide
/-- R84: the sequencer of each quad; lane registers stay. -/
theorem test_ssub : (let s := after (w0 0) (.ssub 4 3 2); (sGet (groupAt s 0) 0 4, sGet (groupAt s 0) 1 4, reg s 0 1)) = (2, 0xFFFFFFF7, 6) := by
  decide
/-- R89: a dead lane reads 0 with the dead-read flag in the active lanes. -/
theorem test_rdln_dead : (let s := after deadLane (.rdln 2 1 1); (sGet (groupAt s 0) 0 2, flags s 0, flags s 1)) = (0, 64, 0) := by decide
/-- R131: lanes 0, 1, 4 and 5 have p0; the helper lanes 3 and 7 do not take part. -/
theorem test_vote : (let s := after (w0 0) (.vote 4 0 0); (sGet (groupAt s 0) 0 4, sGet (groupAt s 0) 1 5)) = (0x77, 0) := by decide
/-- R127: QSWZ 0xB1 swaps neighbours. -/
theorem test_qswz : (let s := after (world (groupT [quadT 0 [] 0 [(2, 9)], quadT 1 [] 0 []])) (.qswz 3 2 0xB1); (reg s 0 3, reg s 2 3)) = (9, 0) := by
  decide
/-- R25: mode msize=8 is 0x1060_0000. -/
theorem test_mode : modeOf (groupAt (after (w0 0) (.mode 0x60 0 0)) 0) 1 = 0x600000 := by decide
set_option exponentiation.threshold 1000 in
/-- R75: 1 + 1, and 1 + 2^-24 rounded to even with the inexact flag. -/
theorem test_fadd : lane0 f32 0x3F800000 0x3F800000 (.fadd 4 2 3) = (0x40000000, 0) ∧
    lane0 f32 0x3F800000 0x33800000 (.fadd 4 2 3) = (0x3F800000, 16) := by decide
/-- Table 4.6. -/
theorem test_seeds : (lane0 f32 0x40800000 0 (.rsq 4 2 0)).1 = 0x3EFF8000 ∧ (lane0 f32 0x40000000 0 (.rsq 4 2 0)).1 = 0x3F34B000 ∧
    (lane0 f32 0x40400000 0 (.rcp 4 2 0)).1 = 0x3EAA4000 ∧ (lane0 f32 0x3F800000 0 (.rcp 4 2 0)).1 = 0x3F7F0000 := by decide
set_option maxRecDepth 8000 in
/-- Tables 4.4 and 5.6: 300, 500 and 0.001 to E4M3 (code 9), 0.75 to PP8 (code 11). -/
theorem test_cvt : lane0 f32 0x43960000 0 (.cvt 4 2 9) = (0x79, 16) ∧ lane0 f32 0x43FA0000 0 (.cvt 4 2 9) = (0x7F, 21) ∧
    lane0 (f32 + sat) 0x43FA0000 0 (.cvt 4 2 9) = (0x7E, 52) ∧ lane0 f32 0x3A83126F 0 (.cvt 4 2 9) = (0x01, 24) ∧
    lane0 f32 0x3F400000 0 (.cvt 4 2 11) = (0x77777712, 0) := by decide
theorem test_cvtn_cvtw : (lane0 f32 0x3F800000 0xC0000000 (.cvtn 4 2 7)).1 = 0xC0003C00 ∧
    (let s := after (pairT (9 * 32) 0xC038403C 0) (.cvtw 4 2 6); (reg s 0 4, reg s 0 5)) = (0x3FC00000, 0x40000000) ∧
    (let s := after (pairT 0 0xFFFFFFFD 0) (.cvtw 4 2 12); (reg s 0 4, reg s 0 5)) = (0xFFFFFFFD, 0xFFFFFFFF) := by decide
set_option exponentiation.threshold 1000 in
/-- The example of R82. -/
theorem test_twos : (let s := after (pairT 0 0x4B800000 0x3F800000) (.twos 6 2 3); (reg s 0 6, reg s 0 7, flags s 0)) = (0x4B800000, 0x3F800000, 0) := by
  decide
/-- R113, R114: the target is PC + 4L; the two words of a branch not taken are passed. -/
theorem test_branches : (splitAt (groupAt (after (w0 0) (.bra 0 0 0 0xFFFFFFFE)) 0) 0).pc = 8 ∧
    (splitAt (groupAt (after (w0 0) (.brs 0x10 4 5 9)) 0) 0).pc = 24 := by decide
/-- R120: the return address of CALL. -/
theorem test_call : (let s := after (w0 0) (.call 60 0 0 0x20); ((splitAt (groupAt s 0) 0).pc, sPair (groupAt s 0) 1 60)) = (144, 24) := by decide
set_option maxRecDepth 8000 in
/-- R254, R247: trap 18 in every active lane, and the handler split. -/
theorem test_trap : (let s := after (w0 0) (.trap 0 0 18); let gr := groupAt s 0
    ((laneAt gr 5).fault, (laneAt gr 5).faddr, (splitAt gr 8).pc, sPair gr 0 52, modeOf gr 0)) = (18, 18, 0x1010, 0x55, 0) := by decide
set_option maxRecDepth 8000 in
/-- The worked decodes after R35: aperture 8 is code 5, v80 of an allocation of 64 code 10 in the lanes whose guard is 1. -/
theorem test_worked_decodes : (laneAt (groupAt (after (w0 0) (.apt 1 8 0)) 0) 0).fault = 5 ∧
    (let gr := groupAt (after (w0 1) (.add 80 2 3)) 0; ((laneAt gr 0).fault, (laneAt gr 1).fault)) = (10, 0) ∧
    (laneAt (groupAt (after (w0 0) (.rett 2 0 0)) 0) 0).fault = 6 := by decide
set_option maxRecDepth 8000 in
theorem test_unassigned : (laneAt (groupAt (after (w0 0) (.unassignedOpcode 0x1E000000)) 0) 0).fault = 5 ∧
    (laneAt (groupAt (after (w0 0) (.unassignedOpcode 0x1E000000)) 0) 0).faddr = 16 := by decide
set_option maxRecDepth 16000 in
/-- R121, R122. -/
theorem test_exit_demote : (laneAt (groupAt (after (w0 0) (.exit 0 0 0)) 0) 4).exited = true ∧
    (laneAt (groupAt (after (w0 0) (.demote 0 0 0)) 0) 4).helper = true := by decide
/-- R172, R155: one store of each real lane waits, and memory is as before; it departs with the generation. -/
theorem test_st : (let s := after (w0 0) (.st 2 8 64); ((groupAt s 0).storeQ.map (·.lane), homeByte s ⟨.hbm, 64⟩)) = ([0, 1, 2, 4, 5, 6], 0) := by decide
theorem test_departure : (let s := after (queuedT ⟨.hbm, 64⟩) (.storeQueueDeparture 0); (s.flight.map (·.gen), (groupAt s 0).storeQ)) = ([1], []) := by
  decide
theorem test_slice : homeBytes (after sliceT (.sliceApply (sliceOf ⟨.hbm, 64⟩))) ⟨.hbm, 64⟩ 5 = [1, 2, 3, 4, 0] := by decide
set_option maxRecDepth 4000 in
/-- R141: two lanes' loads of one sector return at once. -/
theorem test_load_sector : (let s := after servedT (.resultReturn 0 7); (reg s 0 3, reg s 1 3, (groupAt s 0).reqs.map (·.id))) = (0, 0, [9]) := by
  decide
/-- A load of HBM returns little-endian words: the root entry 0x10001. -/
theorem test_load :
    reg (after (modGroup servedT 0 fun gr => { gr with reqs := [{ loadT with what := .mem ⟨.hbm, 0⟩ 4 false }] }) (.resultReturn 0 7)) 0 3 = 0x10001 := by
  decide
/-- R177: an atomic without a destination awaits nothing. -/
theorem test_aadd : (let s := after (w0 0) (.aadd 255 8 6); ((groupAt s 0).storeQ.length, (groupAt s 0).reqs)) = (6, []) ∧
    (groupAt (after (w0 0) (.aadd 4 8 6)) 0).reqs.length = 6 := by decide
/-- R183: a queue's value goes to the tail slot and comes from the head slot. -/
theorem test_push_pop : (let s := enqueue (queueT 1) 0 15 8; ((queueAt s 0 15).count, homeBytes s ⟨.pool 0, 4⟩ 4)) = (2, [8, 0, 0, 0]) ∧
    (queueAt (dequeue (queueT 2) 0 15 0 0).2.2 0 15).head = 1 := by decide
/-- R273: class 7 of slack 4095 with reports. -/
theorem test_slk : ((wgAt (after circT (.slk 7 4 0)) 0).slack.drop 7).map (fun c => (c.s, c.report)) = [(4095, true)] := by decide
/-- Table 23.3: a trip is logged. R266: the time of the next window. -/
theorem test_events : (after State.reset (.railTrip 1 1875)).obs.log.length = 1 ∧ (after State.reset .transitWindow).now = 8 := by decide
/-- A step of a state that withFetchWord makes runs the word: movi v9, 3. -/
theorem test_step : (match step (State.reset.withFetchWord 32 0x3A09_0003) with | .next t => reg t 0 9 | _ => 0) = 3 := by decide

end Sys2Proof.Tests
end

section
/-!
Proofs of the scope family: what the accesses to a control page do (R6, R300, R343).
-/

namespace Sys2Proof.Machine

/-! ## Updates of one partition, and the value that a read returns -/

/-- No partition holds a byte of a memory. -/
theorem modPart_sameMemory (s : State) (p : Nat) (f : Partition → Partition) : SameMemory s (modPart s p f) :=
  fun _ => rfl

/-- The value that software has read last stands in no memory. -/
theorem SameMemory.withLastRead {s t : State} (h : SameMemory s t) (v : DWord) : SameMemory s { t with lastRead := v } := h

@[simp] theorem partAt_withLastRead (s : State) (v : DWord) (p : Nat) : partAt { s with lastRead := v } p = partAt s p := rfl

/-- The outcome goes on with partition p changed by f, and with every other partition, every group, every byte of memory
and the value last read as before. -/
def ChangesPartition (s : State) (p : Nat) (f : Partition → Partition) (out : Out) : Prop :=
  ∃ t, out = .next t ∧ SameMemory s t ∧ t.groups = s.groups ∧ t.lastRead = s.lastRead ∧
    ∀ q, partAt t q = if q = p then f (partAt s p) else partAt s q

theorem changesPartition_modPart {s : State} {p : Nat} (hp : p < s.parts.length) (f : Partition → Partition) :
    ChangesPartition s p f (.next (modPart s p f)) := by
  refine ⟨modPart s p f, rfl, modPart_sameMemory s p f, modPart_groups s p f, modPart_lastRead s p f, fun q => ?_⟩
  by_cases hq : q = p
  · subst hq
    rw [if_pos rfl, partAt_modPart_same s hp]
  · rw [if_neg hq, partAt_modPart_other s hq]

/-! ## The RW registers (Tables 19.3 and 20.1) -/

/-- A write to a register of the control page that is not RW is ignored. -/
theorem exec_registerWrite_readOnly {off : Nat} (h : off ∉ [0x104, 0x10C, 0x200, 0x208, 0x210, 0x218, 0x220]) (p : Nat)
    (v : DWord) (s : State) : exec (.registerWrite p off v) s = .next (modPart s p id) := by
  change execRegisterWrite p off v s = _
  unfold execRegisterWrite
  dsimp only
  congr 2
  funext pt
  split
  case h_8 => rfl
  all_goals simp at h

/-! ## ENERGYLO and ENERGYHI (R343) -/

/-- The counter saturates below 2^64. -/
theorem energyNow_lt (s : State) (p : Nat) : energyNow s p < 2 ^ 64 := by
  unfold energyNow
  omega

/-- A read never turns the counter back. -/
theorem energy_le_energyNow {s : State} {p : Nat} (h : (partAt s p).energy < 2 ^ 64) :
    (partAt s p).energy ≤ energyNow s p := by
  unfold energyNow
  omega

/-- What a 4-byte read of ENERGYLO leaves in its partition: the counter, and its high half latched for the requester. -/
theorem partAt_energyloRead {s t : State} {p req : Nat} (hp : p < s.parts.length)
    (h : exec (.energyloRead p req) s = .next t) :
    partAt t p = { partAt s p with
      energy := energyNow s p
      energyHi := cellPut 0 req (BitVec.ofNat 32 (energyNow s p / 2 ^ 32)) (partAt s p).energyHi } := by
  cases h
  rw [partAt_withLastRead, partAt_modPart_same s hp]

/-- Settles O51: every write is one update of its partition, an offset without a RW register is the identity, and the
reads change a register of their own partition beside the value that they return. -/
theorem controlPageRegisters : Obligations.ControlPageRegisters := by
  intro s p v hp
  have writes (off : Nat) (f : Partition → Partition) (h : exec (.registerWrite p off v) s = .next (modPart s p f)) :
      ChangesPartition s p f (exec (.registerWrite p off v) s) := h ▸ changesPartition_modPart hp f
  refine ⟨?invalcfg, ?errstat, writes 0x104 _ rfl, writes 0x10C _ rfl, writes 0x200 _ rfl, writes 0x208 _ rfl,
    writes 0x210 _ rfl, writes 0x218 _ rfl, writes 0x220 _ rfl, ?readOnly, ?errdrop, fun req hreq => ⟨?energylo, ?energyhi⟩⟩
  case invalcfg =>
    have hbit : (loWord v).getLsbD 2 = v.getLsbD 2 := by simp [loWord]
    rw [← hbit]
    exact changesPartition_modPart hp _
  case errstat =>
    have hlow : (loWord v).setWidth 16 = v.setWidth 16 := BitVec.setWidth_setWidth_of_le v (by decide)
    rw [← hlow]
    exact changesPartition_modPart hp _
  case readOnly => exact fun off hoff => writes off id (exec_registerWrite_readOnly hoff p v s)
  case errdrop =>
    refine ⟨_, rfl, rfl, ?_, (modPart_sameMemory s p _).withLastRead _⟩
    rw [partAt_withLastRead, partAt_modPart_same s hp]
  case energylo =>
    have hpart := partAt_energyloRead (req := req) hp rfl
    refine ⟨_, energyNow s p, rfl, (modPart_sameMemory s p _).withLastRead _, energy_le_energyNow hreq, energyNow_lt s p,
      congrArg Partition.energy hpart, rfl, ?_, fun k hk => ?_⟩
    · exact hpart ▸ cellGet_put_same 0 req _ _
    · exact hpart ▸ cellGet_put_other 0 hk _ _
  case energyhi => exact ⟨_, rfl, rfl, rfl⟩

end Sys2Proof.Machine
end

section
/-!
Frame of the tables: writes of a device unit change no group, and what follows of itself in a group's tables changes no lane.
-/

namespace Sys2Proof.Machine

/-! ## Writes of a device unit change no group -/

@[simp] theorem pokeByte_groups (s : State) (l : Loc) (b : Byte) : (pokeByte s l b).groups = s.groups := by
  unfold pokeByte
  cases l.space <;> rfl

@[simp] theorem pokeBytes_groups (s : State) (l : Loc) (bytes : List Byte) : (pokeBytes s l bytes).groups = s.groups := by
  induction bytes generalizing s l with
  | nil => rfl
  | cons b r ih => rw [pokeBytes, ih, pokeByte_groups]

@[simp] theorem ringEntry_groups (s : State) (p kind addr crec wgid unit detail : Nat) :
    (ringEntry s p kind addr crec wgid unit detail).groups = s.groups := by
  unfold ringEntry
  dsimp only
  split
  · rfl
  · split <;> simp only [modPart_groups, pokeBytes_groups]

@[simp] theorem noteForeign_groups (p : Nat) (va : DWord) (s : State) : (noteForeign p va s).groups = s.groups := by
  unfold noteForeign
  split
  · exact ringEntry_groups ..
  · rfl

@[simp] theorem writeByte_groups (s : State) (p t : Nat) (l : Loc) (b : Byte) : (writeByte s p t l b).groups = s.groups := by
  unfold writeByte
  dsimp only
  split
  case h_1 | h_2 => split <;> simp only [modPart_groups, pokeByte_groups]
  case h_3 => exact pokeByte_groups s l b

@[simp] theorem homeWrite_groups (s : State) (p t : Nat) (l : Loc) (bytes : List Byte) :
    (homeWrite s p t l bytes).groups = s.groups := by
  induction bytes generalizing s l with
  | nil => rfl
  | cons b r ih => rw [homeWrite, ih, writeByte_groups]

@[simp] theorem setBad_groups (s : State) (p t : Nat) (l : Loc) (bad : Bool) : (setBad s p t l bad).groups = s.groups := by
  unfold setBad
  dsimp only
  split
  case h_1 | h_2 => split <;> rfl
  case h_3 => rfl

@[simp] theorem clearPoison_groups (s : State) (l : Loc) (n : Nat) : (clearPoison s l n).groups = s.groups := by
  unfold clearPoison
  split
  · split <;> rfl
  · rfl

@[simp] theorem storePoison_groups (s : State) (p t : Nat) (l : Loc) (n : Nat) (bad : List Nat) :
    (storePoison s p t l n bad).groups = s.groups := by
  unfold storePoison
  split
  case h_1 => exact clearPoison_groups s l n
  case h_2 | h_3 =>
    split
    · exact setBad_groups ..
    · split
      · exact setBad_groups ..
      · rfl
  case h_4 => rfl

@[simp] theorem storeSeen_groups (s : State) (p : Nat) (l : Loc) (n : Nat) : (storeSeen s p l n).groups = s.groups := by
  unfold storeSeen
  split <;> rfl

@[simp] theorem stalled_groups (p t : Nat) (l : Loc) (s : State) : (stalled p t l s).groups = s.groups := by
  unfold stalled
  split <;> rfl

@[simp] theorem unitWaits_groups (p : Nat) (l : Loc) (bytes : List Byte) (s : State) :
    (unitWaits p l bytes s).groups = s.groups := rfl

@[simp] theorem putPiece_groups (p : Nat) (l : Loc) (bytes : List Byte) (s : State) :
    (putPiece p l bytes s).groups = s.groups := by
  unfold putPiece
  dsimp only
  split
  case h_1 | h_2 =>
    split
    · rw [storePoison_groups, homeWrite_groups, modPart_groups, storeSeen_groups]
    · rw [unitWaits_groups, stalled_groups, storeSeen_groups]
  case h_3 => split <;> simp only [modPart_groups, homeWrite_groups, storeSeen_groups]
  case h_4 => rw [homeWrite_groups, storeSeen_groups]

@[simp] theorem unitPiece_groups (p : Nat) (va : DWord) (bytes : List Byte) (s : State) :
    (unitPiece p va bytes s).groups = s.groups := by
  unfold unitPiece
  split
  · exact noteForeign_groups p va s
  · exact putPiece_groups p _ bytes s

@[simp] theorem unitWrite_groups (s : State) (p : Nat) (va : DWord) (bytes : List Byte) :
    (unitWrite s p va bytes).groups = s.groups :=
  foldl_keeps _ State.groups (fun s _ => unitPiece_groups _ _ _ s) _ _

theorem spillWrite_groups (g : Nat) (s : State) (r : Region) : (spillWrite g s r).groups = s.groups := by
  unfold spillWrite
  split
  · exact unitWrite_groups ..
  · rfl

theorem foldl_spillWrite_groups (g : Nat) (rs : List Region) (s : State) :
    (rs.foldl (spillWrite g) s).groups = s.groups := foldl_keeps _ State.groups (spillWrite_groups g) rs s

theorem groupAt_of_groups {s t : State} (h : t.groups = s.groups) (g : Nat) : groupAt t g = groupAt s g := by
  rw [groupAt, h]; rfl

theorem each_groups {f : Nat → State → State} (h : ∀ k s, (f k s).groups = s.groups) (ks : List Nat) (s : State) :
    (each ks f s).groups = s.groups := foldl_keeps (fun s k => f k s) State.groups (fun s k => h k s) ks s

/-! ## The lanes of a group -/

/-- The lanes of every quad of a group: what no change of its tables, registers s or mode words touches. -/
def lanesOf (gr : Group) : List (List Lane) := gr.quads.map (·.lanes)

theorem laneAt_of_lanesOf {gr gr' : Group} (h : lanesOf gr' = lanesOf gr) (l : Nat) : laneAt gr' l = laneAt gr l := by
  have key (gr : Group) : laneAt gr l = nth {} (nth ({} : Quad).lanes (lanesOf gr) (l / 4)) (l % 4) := by
    simp only [laneAt, quadAt, lanesOf, nth, List.getD_eq_getElem?_getD, List.getElem?_map]
    cases gr.quads[l / 4]? <;> rfl
  rw [key, key, h]

theorem lanesOf_modQuad (gr : Group) (k : Nat) {f : Quad → Quad} (h : ∀ q, (f q).lanes = q.lanes) :
    lanesOf (modQuad gr k f) = lanesOf gr := by
  unfold lanesOf modQuad
  induction gr.quads generalizing k with
  | nil => rfl
  | cons q r ih =>
    cases k with
    | zero => simp only [upd, List.map_cons, h]
    | succ k => simpa only [upd, List.map_cons, List.cons.injEq, true_and] using ih k

/-- A fold keeps the lanes where each of its steps does. -/
theorem lanesOf_each {f : Nat → Group → Group} (h : ∀ k gr, lanesOf (f k gr) = lanesOf gr) (ks : List Nat) (gr : Group) :
    lanesOf (each ks f gr) = lanesOf gr :=
  foldl_keeps (fun gr k => f k gr) lanesOf (fun gr k => h k gr) ks gr

@[simp] theorem lanesOf_modSplit (gr : Group) (e : Nat) (f : Split → Split) : lanesOf (modSplit gr e f) = lanesOf gr := rfl
@[simp] theorem lanesOf_freeSplit (gr : Group) (e : Nat) : lanesOf (freeSplit gr e) = lanesOf gr := rfl
@[simp] theorem lanesOf_modRegion (gr : Group) (n : Nat) (f : Region → Region) : lanesOf (modRegion gr n f) = lanesOf gr := rfl

@[simp] theorem lanesOf_unify (gr : Group) (m : QuadMask) : lanesOf (unify gr m) = lanesOf gr := by
  unfold unify
  split
  · rfl
  · exact lanesOf_each (fun _ _ => lanesOf_modQuad _ _ fun _ => by rfl) _ _

@[simp] theorem lanesOf_startPass (gr : Group) (n now : Nat) : lanesOf (startPass gr n now) = lanesOf gr := by
  unfold startPass
  dsimp only
  split
  · rw [lanesOf_modRegion, lanesOf_modSplit, lanesOf_each, lanesOf_each] <;> exact fun _ _ => rfl
  · split <;> rfl

@[simp] theorem lanesOf_mergeRegion (gr : Group) (n now : Nat) : lanesOf (mergeRegion gr n now) = lanesOf gr := by
  unfold mergeRegion
  dsimp only
  split
  · rfl
  · have freed (es : List Nat) (m : QuadMask) : lanesOf (each es (fun e gr => freeSplit gr e) (unify gr m)) = lanesOf gr :=
      (lanesOf_each (fun _ _ => by rfl) _ _).trans (lanesOf_unify gr m)
    split <;> exact freed _ _

@[simp] theorem lanesOf_regang (gr : Group) (x now : Nat) : lanesOf (regang gr x now) = lanesOf gr := by
  unfold regang
  split
  · rfl
  · exact lanesOf_unify _ _

theorem lanesOf_setMode (gr : Group) (k : Nat) (m : Word) : lanesOf (setMode gr k m) = lanesOf gr :=
  lanesOf_modQuad gr k fun _ => rfl

theorem lanesOf_sSet (gr : Group) (k r : Nat) (x : Word) : lanesOf (sSet gr k r x) = lanesOf gr :=
  lanesOf_modQuad gr k fun _ => rfl

theorem lanesOf_enterQuad (va fpc arg : DWord) (flanes : LaneMask) (k : Nat) (gr : Group) :
    lanesOf (enterQuad va fpc arg flanes k gr) = lanesOf gr := by
  simp only [enterQuad, sSetPair, lanesOf_sSet, lanesOf_setMode]

/-! ## A group's lanes through what follows of itself (R99 to R105) -/

theorem lanesOf_modGroup (s : State) (g : Nat) {f : Group → Group} (h : ∀ gr, lanesOf (f gr) = lanesOf gr) :
    lanesOf (groupAt (modGroup s g f) g) = lanesOf (groupAt s g) := by
  rw [groupAt_modGroup]
  split
  · exact h _
  · rfl

theorem lanesOf_moveRegion (s : State) (g n : Nat) (p : RegPlace) (f : Region → Region) :
    lanesOf (groupAt (moveRegion s g n p f) g) = lanesOf (groupAt s g) := by
  unfold moveRegion
  rw [groupAt_of_groups (foldl_spillWrite_groups ..), lanesOf_modGroup]
  exact fun _ => rfl

theorem lanesOf_keepSpilled (before : Group) (s : State) (g : Nat) :
    lanesOf (groupAt (keepSpilled before s g) g) = lanesOf (groupAt s g) := by
  unfold keepSpilled
  rw [groupAt_of_groups (foldl_spillWrite_groups ..)]

theorem lanesOf_reloadAt (s : State) (g n k i : Nat) : lanesOf (groupAt (reloadAt s g n k i) g) = lanesOf (groupAt s g) := by
  unfold reloadAt
  dsimp only
  rw [lanesOf_moveRegion, groupAt_of_groups (noteForeign_groups ..)]

theorem lanesOf_regionRoom {s t : State} {g i : Nat} (h : regionRoom s g = some (t, i)) :
    lanesOf (groupAt t g) = lanesOf (groupAt s g) := by
  unfold regionRoom at h
  dsimp only at h
  split at h
  · cases h; rfl
  · split at h
    · split at h
      · cases h; exact lanesOf_moveRegion ..
      · cases h
    · cases h

theorem lanesOf_regionLoad {s t : State} {g n : Nat} (h : regionLoad s g n = some t) :
    lanesOf (groupAt t g) = lanesOf (groupAt s g) := by
  unfold regionLoad at h
  split at h
  · cases h; exact lanesOf_modGroup s g fun _ => by rfl
  · obtain ⟨⟨s', i⟩, hroom, rfl⟩ := Option.map_eq_some_iff.1 h
    exact (lanesOf_reloadAt ..).trans (lanesOf_regionRoom hroom)

theorem lanesOf_regionTake (s : State) (g n : Nat) : lanesOf (groupAt (regionTake s g n) g) = lanesOf (groupAt s g) := by
  unfold regionTake
  split
  · rename_i hload; exact lanesOf_regionLoad hload
  · split
    · exact (lanesOf_moveRegion ..).trans (lanesOf_reloadAt ..)
    · rfl
  · rfl

theorem lanesOf_settleOnce {s t : State} {g : Nat} (h : settleOnce s g = some t) :
    lanesOf (groupAt t g) = lanesOf (groupAt s g) := by
  unfold settleOnce at h
  dsimp only at h
  split at h
  · cases h; exact lanesOf_modGroup s g fun _ => by rfl
  split at h
  · cases h; exact (lanesOf_modGroup _ g fun _ => by rfl).trans (lanesOf_regionTake ..)
  split at h
  · cases h; exact lanesOf_modGroup s g fun _ => by rfl
  split at h
  · cases h
    refine (lanesOf_modGroup _ g fun gr => ?_).trans (lanesOf_regionTake ..)
    split
    · exact lanesOf_startPass ..
    · exact lanesOf_mergeRegion ..
  split at h
  · cases h
    exact (lanesOf_keepSpilled ..).trans (lanesOf_modGroup s g fun _ => by rfl)
  · cases h

theorem lanesOf_settle (g n : Nat) (s : State) : lanesOf (groupAt (settle g n s) g) = lanesOf (groupAt s g) := by
  induction n generalizing s with
  | zero => rfl
  | succ n ih =>
    unfold settle
    split
    · rfl
    · rename_i hone; exact (ih _).trans (lanesOf_settleOnce hone)

theorem lanesOf_settled (s : State) (g : Nat) : lanesOf (groupAt (settled s g) g) = lanesOf (groupAt s g) := lanesOf_settle ..

end Sys2Proof.Machine
end

section
/-!
Taking a fault: the lanes in which a decode fault is recorded, and what stays as it was (R35, R36, R247).
-/

namespace Sys2Proof.Machine

/-! ## Taking a fault (R36, R247) -/

theorem lanesOf_withFrame (gr : Group) (f : Option Frame) : lanesOf { gr with frame := f } = lanesOf gr := rfl

/-- Entering the handler changes no lane: what it writes are sequencer registers and mode words (R248). -/
theorem lanesOf_enterHandler {s : State} {g : Nat} (r : Raise) (hv : (handlerVector s g).1 ≠ 0) :
    lanesOf (groupAt (enterHandler s g r) g) = lanesOf (groupAt s g) := by
  unfold enterHandler
  dsimp only
  rw [if_neg (by simpa using hv), lanesOf_settled, groupAt_modGrid, lanesOf_modGroup]
  case h =>
    intro gr
    rw [lanesOf_withFrame, lanesOf_modSplit, apply_ite lanesOf, lanesOf_freeSplit, lanesOf_modSplit, ite_self]
    have entered (ks : List Nat) (va fpc arg : DWord) (m : LaneMask) :
        lanesOf (each ks (enterQuad va fpc arg m) gr) = lanesOf gr := lanesOf_each (lanesOf_enterQuad va fpc arg m) ks gr
    cases r.resume
    case jtLoad => exact (lanesOf_modRegion ..).trans (entered ..)
    all_goals exact entered ..
  refine (congrArg lanesOf (groupAt_of_groups ((each_groups ?_ _ _).trans (unitWrite_groups ..)) g)).trans ?_
  · exact fun _ _ => by rw [unitWrite_groups, unitWrite_groups]
  · split
    · exact lanesOf_regionTake ..
    · rfl

/-- A lane with a fault's code and address (R36). -/
def faulted (ln : Lane) (code : Nat) (addr : DWord) : Lane := { ln with fault := BitVec.ofNat 32 code, faddr := addr }

theorem faulted_faulted (ln : Lane) (code : Nat) (addr : DWord) : faulted (faulted ln code addr) code addr = faulted ln code addr :=
  rfl

/-- What trapEntry records before the handler is entered. -/
def recorded (gr : Group) (lanes : List (Nat × Nat × DWord)) : Group :=
  lanes.foldl (fun gr f => recordFault gr [f.1] f.2.1 f.2.2) gr

theorem laneThere_modLane (gr : Group) (j l : Nat) (f : Lane → Lane) : laneThere (modLane gr j f) l ↔ laneThere gr l := by
  unfold laneThere
  rw [modLane_length, quadAt_modLane_length]

theorem laneAt_modLane_same {gr : Group} {l : Nat} (h : laneThere gr l) (f : Lane → Lane) :
    laneAt (modLane gr l f) l = f (laneAt gr l) := by rw [laneAt_modLane, if_pos ⟨rfl, h⟩]

theorem laneAt_modLane_other (gr : Group) {j l : Nat} (h : l ≠ j) (f : Lane → Lane) :
    laneAt (modLane gr j f) l = laneAt gr l := by rw [laneAt_modLane, if_neg fun h' => h h'.1]

/-- A fault of one code and address is recorded in its lanes, and in no other. -/
theorem laneAt_recorded {lanes : List (Nat × Nat × DWord)} {code : Nat} {addr : DWord} (hsame : ∀ x ∈ lanes, x.2 = (code, addr))
    {gr : Group} {l : Nat} (hl : laneThere gr l) :
    laneAt (recorded gr lanes) l = if l ∈ lanes.map (·.1) then faulted (laneAt gr l) code addr else laneAt gr l := by
  induction lanes generalizing gr with
  | nil => rfl
  | cons x r ih =>
    obtain ⟨j, c, a⟩ := x
    have hx : (c, a) = (code, addr) := hsame _ List.mem_cons_self
    obtain ⟨rfl, rfl⟩ := Prod.mk.injEq .. ▸ hx
    have hstep : recorded gr ((j, c, a) :: r) = recorded (modLane gr j fun ln => faulted ln c a) r := rfl
    rw [hstep, ih (fun x h => hsame x (List.mem_cons_of_mem _ h)) ((laneThere_modLane ..).2 hl)]
    by_cases hj : l = j
    · subst hj
      rw [laneAt_modLane_same hl, faulted_faulted, ite_self, List.map_cons, if_pos List.mem_cons_self]
    · simp only [laneAt_modLane_other gr hj, List.map_cons, List.mem_cons, hj, false_or]

/-- Two groups of one standing: they differ in their lanes, registers and tables alone. -/
structure SameStanding (gr gr' : Group) : Prop where
  part : gr'.part = gr.part
  wg : gr'.wg = gr.wg
  frame : gr'.frame = gr.frame

theorem recorded_standing (gr : Group) (lanes : List (Nat × Nat × DWord)) : SameStanding gr (recorded gr lanes) :=
  ⟨foldl_keeps _ Group.part (fun _ _ => by rfl) lanes gr, foldl_keeps _ Group.wg (fun _ _ => by rfl) lanes gr,
    foldl_keeps _ Group.frame (fun _ _ => by rfl) lanes gr⟩

theorem handlerVector_modGroup (s : State) (g : Nat) {f : Group → Group} (h : ∀ gr, SameStanding gr (f gr)) :
    handlerVector (modGroup s g f) g = handlerVector s g := by
  have hgr : SameStanding (groupAt s g) (groupAt (modGroup s g f) g) := by
    rw [groupAt_modGroup]
    split
    · exact h _
    · exact ⟨rfl, rfl, rfl⟩
  unfold handlerVector gridOf wgOf cfgOf
  rw [hgr.part, hgr.wg]
  rfl

/-- R247: the lanes of an ordinary split whose handler is free record their fault, and no other lane changes. -/
theorem laneAt_trapEntry {s : State} {g : Nat} {r : Raise} {code : Nat} {addr : DWord} (hg : g < s.groups.length)
    (he : r.entry < 8) (hframe : (groupAt s g).frame = none) (hv : (handlerVector s g).1 ≠ 0)
    (hsame : ∀ x ∈ r.lanes, x.2 = (code, addr)) {l : Nat} (hl : laneThere (groupAt s g) l) :
    laneAt (groupAt (trapEntry s g r) g) l =
      if l ∈ r.lanes.map (·.1) then faulted (laneAt (groupAt s g) l) code addr else laneAt (groupAt s g) l := by
  by_cases hempty : r.lanes = []
  · simp [trapEntry, hempty]
  have hentry : (r.entry == 8) = false := beq_eq_false_iff_ne.2 (by omega)
  have hstands := recorded_standing (groupAt s g) r.lanes
  have htrap : trapEntry s g r = enterHandler (modGroup s g fun gr => recorded gr r.lanes) g r := by
    unfold trapEntry
    simp only [List.isEmpty_iff, hempty, if_false, hentry, Bool.false_eq_true]
    change (match (groupAt (modGroup s g fun gr => recorded gr r.lanes) g).frame with | some _ => _ | none => _) = _
    rw [groupAt_modGroup_same s hg, hstands.frame, hframe]
    rfl
  rw [htrap, laneAt_of_lanesOf (lanesOf_enterHandler r ?_), groupAt_modGroup_same s hg, laneAt_recorded hsame hl]
  rwa [handlerVector_modGroup s g fun gr => recorded_standing gr r.lanes]


/-! ## After an instruction without effect -/

/-- t is s but for the tables of group g, and for whether its region is idempotent. -/
structure TablesOnly (s t : State) (g : Nat) : Prop where
  rest : t = { s with groups := t.groups }
  count : t.groups.length = s.groups.length
  group : groupAt t g = { groupAt s g with splits := (groupAt t g).splits, idem := (groupAt t g).idem }

namespace TablesOnly
variable {s t u : State} {g : Nat}

theorem refl (s : State) (g : Nat) : TablesOnly s s g := ⟨rfl, rfl, rfl⟩

theorem trans (h : TablesOnly s t g) (h' : TablesOnly t u g) : TablesOnly s u g :=
  ⟨by rw [h'.rest, h.rest], h'.count.trans h.count, by rw [h'.group, h.group]⟩

theorem modGroup (s : State) (g : Nat) {f : Group → Group}
    (h : ∀ gr, f gr = { gr with splits := (f gr).splits, idem := (f gr).idem }) : TablesOnly s (modGroup s g f) g := by
  refine ⟨rfl, modGroup_groups_length .., ?_⟩
  rw [groupAt_modGroup]
  split
  · exact h _
  · rfl

theorem stopRun (s : State) (g e : Nat) : TablesOnly s (stopRun s g e) g := by
  unfold Machine.stopRun
  split
  · exact modGroup s g fun _ => rfl
  · exact refl s g

theorem laneAt (h : TablesOnly s t g) (l : Nat) : laneAt (groupAt t g) l = Machine.laneAt (groupAt s g) l := by
  rw [h.group]; rfl

theorem laneLive (h : TablesOnly s t g) (l : Nat) : laneLive (groupAt t g) l = Machine.laneLive (groupAt s g) l := by
  rw [h.group]; rfl

theorem laneThere (h : TablesOnly s t g) (l : Nat) : laneThere (groupAt t g) l ↔ Machine.laneThere (groupAt s g) l := by
  rw [h.group]; rfl

theorem frame (h : TablesOnly s t g) : (groupAt t g).frame = (groupAt s g).frame := by rw [h.group]

theorem counts (h : TablesOnly s t g) : groupCounts (groupAt t g) = groupCounts (groupAt s g) := by rw [h.group]; rfl

theorem handlerVector (h : TablesOnly s t g) : handlerVector t g = Machine.handlerVector s g := by
  unfold Machine.handlerVector gridOf wgOf
  rw [h.group, h.rest]
  rfl

end TablesOnly

/-- What must hold of the issuing split for its decode faults to enter a handler: R250, R251 and R332 have their own outcomes. -/
structure MayTrap (s : State) (g e : Nat) : Prop where
  present : g < s.groups.length
  ordinary : e < 8
  counts : groupCounts (groupAt s g) = true
  noFrame : (groupAt s g).frame = none
  vector : (handlerVector s g).1 ≠ 0

theorem MayTrap.tablesOnly {s t : State} {g e : Nat} (h : MayTrap s g e) (ht : TablesOnly s t g) : MayTrap t g e :=
  ⟨ht.count ▸ h.present, h.ordinary, ht.counts ▸ h.counts, ht.frame ▸ h.noFrame, ht.handlerVector ▸ h.vector⟩

theorem mem_insertBy {α : Type} (le : α → α → Bool) (x y : α) (l : List α) : y ∈ insertBy le x l ↔ y = x ∨ y ∈ l := by
  induction l with
  | nil => simp [insertBy]
  | cons z r ih =>
    unfold insertBy
    split
    · exact List.mem_cons
    · rw [List.mem_cons, ih, List.mem_cons, or_left_comm]

theorem mem_sortBy {α : Type} (le : α → α → Bool) (y : α) (l : List α) : y ∈ sortBy le l ↔ y ∈ l := by
  induction l with
  | nil => rfl
  | cons x r ih => rw [sortBy, mem_insertBy, ih, List.mem_cons]

theorem laneAt_trapRun {s : State} {g : Nat} {r : Raise} {code : Nat} {addr : DWord} (h : MayTrap s g r.entry)
    (hsame : ∀ x ∈ r.lanes, x.2 = (code, addr)) {l : Nat} (hl : laneThere (groupAt s g) l) :
    laneAt (groupAt (trapRun s g r) g) l =
      if l ∈ r.lanes.map (·.1) then faulted (laneAt (groupAt s g) l) code addr else laneAt (groupAt s g) l := by
  have hstop := TablesOnly.stopRun s g r.entry
  obtain ⟨hg, he, -, hframe, hv⟩ := h.tablesOnly hstop
  unfold trapRun
  rw [laneAt_of_lanesOf (lanesOf_modGroup _ g fun _ => lanesOf_regang ..),
    laneAt_trapEntry hg he hframe hv hsame ((hstop.laneThere l).2 hl), hstop.laneAt]

theorem laneAt_endRun (s : State) (g e l : Nat) : laneAt (groupAt (endRun s g e) g) l = laneAt (groupAt s g) l := by
  unfold endRun
  split
  · exact (laneAt_of_lanesOf (lanesOf_modGroup _ g fun _ => lanesOf_regang ..) l).trans ((TablesOnly.stopRun s g e).laneAt l)
  · rfl

/-- What becomes of the faults of an instruction without effect (R17, R35): with none in a live lane the run goes on or ends, and
otherwise they are taken. -/
theorem finish_noEffect {s : State} {g e op : Nat} (run : Split → Split) (h : MayTrap s g e)
    (hm : (splitAt (groupAt s g) e).marked = []) (decode : List (Nat × Nat × DWord)) :
    ∃ t u, TablesOnly s t g ∧ (u = t ∨ u = endRun t g e) ∧
      let faults := decode.filter fun x => laneLive (groupAt s g) x.1
      finish g e op run (splitAt (groupAt s g) e) decode { s := s } =
        if faults.isEmpty then u
        else trapRun t g
          { entry := e, lanes := sortBy (fun x y => x.1 ≤ y.1) faults, fpc := (splitAt (groupAt s g) e).pc
            next := some (nextAddr (splitAt (groupAt s g) e) (splitAt (groupAt s g) e).pc ((Table.row op).getD {}).words) } := by
  unfold finish
  obtain ⟨s₁, hclosed, hs₁⟩ : ∃ s₁, (if closesRegion op && Flow.next != Flow.yield
      then modGroup s g fun gr => { gr with idem := false } else s) = s₁ ∧ TablesOnly s s₁ g := by
    refine ⟨_, rfl, ?_⟩
    split
    · exact .modGroup s g fun _ => rfl
    · exact .refl s g
  simp only [hm, List.isEmpty_nil, if_true, Flow.waits, List.append_nil, ite_self, Bool.true_or, hclosed, hs₁.laneLive,
    Bool.false_eq_true, if_false]
  generalize hmoved : (modGroup s₁ g fun gr => modSplit gr e fun sp => run (stepPast sp ((Table.row op).getD {}).words)) = t
  have ht : TablesOnly s t g := hs₁.trans (hmoved ▸ .modGroup s₁ g fun _ => rfl)
  have hstop := TablesOnly.stopRun t g e
  have hcounts := ht.counts ▸ h.counts
  cases hnone : (decode.filter fun x => laneLive (groupAt s g) x.1).isEmpty
  case true =>
    refine ⟨t, if runEnds (splitAt (groupAt s g) e) then endRun t g e else t, ht, ?_, by simp⟩
    split <;> simp
  case false =>
    refine ⟨if runEnds (splitAt (groupAt s g) e) then stopRun t g e else t, _, ?_, .inl rfl, ?_⟩
    · split
      · exact ht.trans hstop
      · exact ht
    · split <;> simp [hcounts, hstop.counts]

/-- The lanes of one fault that are left where the lanes of a kind keep it. -/
theorem sameFault_live (lanes : List Nat) (code : Nat) (addr : DWord) (live : Nat → Bool) :
    ((sameFault lanes code addr).filter fun x => live x.1).map (·.1) = lanes.filter live := by
  rw [sameFault, List.filter_map, List.map_map]
  exact List.map_id _

/-- The live lanes of a decode fault record it; dead and exited lanes take none, and no other lane changes (R35). -/
theorem laneAt_finish_sameFault {s : State} {g e op : Nat} (run : Split → Split) (h : MayTrap s g e)
    (hm : (splitAt (groupAt s g) e).marked = []) (lanes : List Nat) (code : Nat) (addr : DWord) {l : Nat}
    (hl : laneThere (groupAt s g) l) :
    laneAt (groupAt (finish g e op run (splitAt (groupAt s g) e) (sameFault lanes code addr) { s := s }) g) l =
      if l ∈ lanes ∧ laneLive (groupAt s g) l = true then faulted (laneAt (groupAt s g) l) code addr
      else laneAt (groupAt s g) l := by
  obtain ⟨t, u, ht, hu, hfinish⟩ := finish_noEffect run h hm (sameFault lanes code addr) (op := op)
  rw [hfinish]
  have hmem : l ∈ ((sameFault lanes code addr).filter fun x => laneLive (groupAt s g) x.1).map (·.1) ↔
      l ∈ lanes ∧ laneLive (groupAt s g) l = true := by rw [sameFault_live, List.mem_filter]
  split
  case isTrue hnone =>
    rw [List.isEmpty_iff.1 hnone] at hmem
    rw [if_neg fun hboth => List.not_mem_nil (hmem.2 hboth)]
    rcases hu with rfl | rfl
    · exact ht.laneAt l
    · exact (laneAt_endRun t g e l).trans (ht.laneAt l)
  case isFalse =>
    rw [laneAt_trapRun (code := code) (addr := addr) (h.tablesOnly ht) ?_ ((ht.laneThere l).2 hl), ht.laneAt]
    · simp only [← hmem, List.mem_map, mem_sortBy]
    · intro x hx
      obtain ⟨j, -, rfl⟩ := List.mem_map.1 (List.mem_filter.1 ((mem_sortBy ..).1 hx)).1
      rfl

end Sys2Proof.Machine
end

section
/-!
The order of checks (R35, R207): what the checks of an instruction come to, and which lanes record the fault.
-/

namespace Sys2Proof.Machine

/-! ## The checks that an instruction fails (R35) -/

@[simp] theorem meet_nothing (s : State) (g op d a b : Nat) : meet s g op d a b [] [] [] = .clean := by
  simp [meet, seqReaders, predReaders]

/-- An instruction that no quad passes has no effect: its decode faults are put into force. -/
theorem issueOp_stopped {s : State} {g e op : Nat} {d a b : Byte} (l : Word) (fx : Env → Eff) {bad : List (Nat × Nat × DWord)}
    (hcur : s.cur = some (g, e)) (hv : (splitAt (groupAt s g) e).valid = true)
    (hc : checks s g e op d.toNat a.toNat b.toNat (splitAt (groupAt s g) e).park.isSome = (bad, [])) :
    issueOp op d a b l fx s =
      .next (finish g e op (issuedIn s g e op d.toNat a.toNat b.toNat) (splitAt (groupAt s g) e) bad { s := s }) := by
  have hnone : (activeLanes s g e).filter (fun l => ([] : List Nat).contains (l / 4)) = [] :=
    List.filter_eq_nil_iff.2 fun _ _ => Bool.false_ne_true
  unfold issueOp
  simp only [hcur, hv, hc, hnone, Bool.not_true, Bool.false_eq_true, if_false, if_true, List.filter_nil, ite_self,
    List.isEmpty_nil, Bool.and_false, meet_nothing]

/-- Every instruction is its opcode, its fields and an effect (the effects that stand as a term of their own are named). -/
theorem exec_of_parts {i : Instr} {op : Nat} {d a b : Byte} (h : i.parts = some (op, d, a, b)) :
    ∃ l fx, ∀ s, exec i s = issueOp op d a b l fx s := by
  cases i
  all_goals cases h
  case nop => exact ⟨0, fun v => { s := v.s }, fun _ => rfl⟩
  case shl => exact ⟨0, fun v => shiftReg v shlBits, fun _ => rfl⟩
  case shr => exact ⟨0, fun v => shiftReg v shrBits, fun _ => rfl⟩
  case sar => exact ⟨0, fun v => shiftReg v sarBits, fun _ => rfl⟩
  case shli => exact ⟨0, fun v => shiftImm v shlBits, fun _ => rfl⟩
  case shri => exact ⟨0, fun v => shiftImm v shrBits, fun _ => rfl⟩
  case sari => exact ⟨0, fun v => shiftImm v sarBits, fun _ => rfl⟩
  all_goals exact ⟨_, _, fun _ => rfl⟩

/-- The instruction goes on with the fault recorded in those of the lanes that live, and with every other lane of the group as it
was. -/
def LiveLanesTake (s : State) (g : Nat) (i : Instr) (lanes : List Nat) (code : Nat) (addr : DWord) : Prop :=
  ∃ t, exec i s = .next t ∧ ∀ l, laneThere (groupAt s g) l → laneAt (groupAt t g) l =
    if l ∈ lanes ∧ laneLive (groupAt s g) l = true then faulted (laneAt (groupAt s g) l) code addr
    else laneAt (groupAt s g) l

/-- An instruction whose checks leave no quad and one fault. -/
theorem liveLanesTake_of_checks {s : State} {g e op : Nat} {i : Instr} {d a b : Byte} {lanes : List Nat} {code : Nat} {addr : DWord}
    (hi : i.parts = some (op, d, a, b)) (hcur : s.cur = some (g, e)) (hv : (splitAt (groupAt s g) e).valid = true)
    (hm : (splitAt (groupAt s g) e).marked = []) (h : MayTrap s g e)
    (hc : checks s g e op d.toNat a.toNat b.toNat (splitAt (groupAt s g) e).park.isSome = (sameFault lanes code addr, [])) :
    LiveLanesTake s g i lanes code addr := by
  obtain ⟨l, fx, hexec⟩ := exec_of_parts hi
  exact ⟨_, (hexec s).trans (issueOp_stopped l fx hcur hv hc), fun l hl => laneAt_finish_sameFault _ h hm lanes code addr hl⟩

section
variable {s : State} {g e op d a b : Nat}

theorem checks_privilege (resumed : Bool) (h : privBad s g e op ((Table.row op).getD {}) = true) :
    checks s g e op d a b resumed = (sameFault (takers s g e op a) 6 (splitAt (groupAt s g) e).pc, []) := by
  unfold checks
  simp [h]

theorem checks_fields (resumed : Bool) (hp : privBad s g e op ((Table.row op).getD {}) = false)
    (hf : Table.fieldsOk ((Table.row op).getD {}) d a b = false) :
    checks s g e op d a b resumed = (sameFault (takers s g e op a) 5 (splitAt (groupAt s g) e).pc, []) := by
  unfold checks
  simp [hp, hf]

theorem takers_active {l : Nat} (h : l ∈ takers s g e op a) : l ∈ activeLanes s g e := (List.mem_filter.1 h).1

/-- The lanes that take codes 10, 16 and 4 (R35, R207). -/
def quadTakers (s : State) (g e op a : Nat) : List Nat := if wholeSplit op then activeLanes s g e else takers s g e op a

/-- An instruction that passes checks 4 and 5, and finds its queue (R183). -/
structure PassesFields (s : State) (g e op d a b : Nat) : Prop where
  allowed : privBad s g e op ((Table.row op).getD {}) = false
  fields : Table.fieldsOk ((Table.row op).getD {}) d a b = true
  inRange : op = 0x9B → redxBad (groupAt s g) d (takers s g e op a) = false
  queue : queueCheck s g op d a b = 0

/-- The faults of checks 6 and 7, in the lanes of the quads that fail one. -/
def quadFaults (s : State) (g e op d a b : Nat) : List (Nat × Nat × DWord) :=
  (takers s g e op a).filterMap fun l =>
    let c := quadCheck (groupAt s g) op d a b ((Table.row op).getD {}) (l / 4)
    if c == 0 then none else some (l, c, (splitAt (groupAt s g) e).pc)

/-- The quads that pass checks 6 and 7. -/
def goodQuads (s : State) (g e op d a b : Nat) : List Nat :=
  (actingQuads s g e).filter fun k => quadCheck (groupAt s g) op d a b ((Table.row op).getD {}) k == 0

/-- Checks 6 to 8, of an instruction that passes 4 and 5. -/
theorem checks_quads (resumed : Bool) (h : PassesFields s g e op d a b) :
    checks s g e op d a b resumed =
      if wholeSplit op && (goodQuads s g e op d a b).length != (actingQuads s g e).length then
        (sameFault (activeLanes s g e) 10 (splitAt (groupAt s g) e).pc, [])
      else if !resumed && anyPending s g op d a b ((Table.row op).getD {}) (goodQuads s g e op d a b) then
        (quadFaults s g e op d a b ++
          sameFault ((quadTakers s g e op a).filter fun l => (goodQuads s g e op d a b).contains (l / 4)) 4 0, [])
      else (quadFaults s g e op d a b, goodQuads s g e op d a b) := by
  obtain ⟨hp, hf, hr, hq⟩ := h
  have hredx : (op == 0x9B && redxBad (groupAt s g) d (takers s g e op a)) = false := by
    by_cases hop : op = 0x9B
    · rw [hr hop, Bool.and_false]
    · simp [hop]
  unfold checks
  simp only [hp, hf, hq, hredx, Bool.not_true, Bool.or_self, Bool.false_eq_true, if_false, Nat.reduceBEq]
  rfl

/-- MRD and MWR accept every mode word, so that their quads fail check 6 or none. -/
theorem quadCheck_wholeSplit {gr : Group} {r : Row} {k : Nat} (hw : wholeSplit op = true) (h : quadCheck gr op d a b r k ≠ 0) :
    quadCheck gr op d a b r k = 10 := by
  have hmode (m : Word) : Table.modeOk op m = true := by
    simp only [wholeSplit, Bool.or_eq_true, beq_iff_eq] at hw
    rcases hw with rfl | rfl <;> rfl
  unfold quadCheck at h ⊢
  simp only [hmode] at h ⊢
  split at h
  · rw [if_pos ‹_›]
  · simp at h

theorem filterMap_eq_map_of_some {α β : Type} {f : α → Option β} {h : α → β} {l : List α} (hf : ∀ x ∈ l, f x = some (h x)) :
    l.filterMap f = l.map h := by
  induction l with
  | nil => rfl
  | cons x r ih =>
    rw [List.filterMap_cons_some (hf x List.mem_cons_self), ih fun y hy => hf y (List.mem_cons_of_mem _ hy), List.map_cons]

/-- Checks 6 and 7: where every quad fails the same one, the lanes take its code. -/
theorem checks_allQuads (resumed : Bool) (h : PassesFields s g e op d a b) (hne : takers s g e op a ≠ []) {c : Nat} (hc : c ≠ 0)
    (hall : ∀ k ∈ actingQuads s g e, quadCheck (groupAt s g) op d a b ((Table.row op).getD {}) k = c) :
    checks s g e op d a b resumed = (sameFault (quadTakers s g e op a) c (splitAt (groupAt s g) e).pc, []) := by
  have quad {l : Nat} (hl : l ∈ takers s g e op a) : l / 4 ∈ actingQuads s g e := quad_of_lane _ l (takers_active hl)
  have hbad : quadFaults s g e op d a b = sameFault (takers s g e op a) c (splitAt (groupAt s g) e).pc := by
    refine filterMap_eq_map_of_some fun l hl => ?_
    rw [hall _ (quad hl), if_neg (mt beq_iff_eq.1 hc)]
  have hgood : goodQuads s g e op d a b = [] := List.filter_eq_nil_iff.2 fun k hk => by simp [hall k hk, hc]
  rw [checks_quads resumed h, hbad, hgood]
  obtain ⟨l, hl⟩ := List.exists_mem_of_ne_nil _ hne
  cases hw : wholeSplit op
  case true =>
    have h10 : c = 10 := hall _ (quad hl) ▸ quadCheck_wholeSplit hw (by rwa [hall _ (quad hl)])
    have hquads : (actingQuads s g e).length ≠ 0 := Nat.ne_of_gt (List.length_pos_of_mem (quad hl))
    simp [quadTakers, hw, h10, hquads.symm]
  case false => simp [quadTakers, hw, sameFault]

/-- Check 8: a pending register is the fault of an instruction that passes the checks before it in every quad. -/
theorem checks_pending (h : PassesFields s g e op d a b)
    (hall : ∀ k ∈ actingQuads s g e, quadCheck (groupAt s g) op d a b ((Table.row op).getD {}) k = 0)
    (hpend : anyPending s g op d a b ((Table.row op).getD {}) (actingQuads s g e) = true) :
    checks s g e op d a b false = (sameFault (quadTakers s g e op a) 4 0, []) := by
  have hbad : quadFaults s g e op d a b = [] :=
    List.filterMap_eq_nil_iff.2 fun l hl => by simp [hall _ (quad_of_lane _ l (takers_active hl))]
  have hgood : goodQuads s g e op d a b = actingQuads s g e := List.filter_eq_self.2 fun k hk => by simp [hall k hk]
  have hlanes : ((quadTakers s g e op a).filter fun l => (actingQuads s g e).contains (l / 4)) = quadTakers s g e op a := by
    refine List.filter_eq_self.2 fun l hl => List.contains_iff_mem.2 (quad_of_lane _ l ?_)
    unfold quadTakers at hl
    split at hl
    · exact hl
    · exact takers_active hl
  rw [checks_quads false h, hbad, hgood, hpend, hlanes]
  simp

end

/-- What R35 says of an instruction that fails a check holds in the lanes that live: they take one fault, of the first check that it
fails, and no other lane of the group changes. -/
theorem liveLanes_take_firstFailedCheck {s : State} {g e op : Nat} {i : Instr} {d a b : Byte} (hi : i.parts = some (op, d, a, b))
    (hcur : s.cur = some (g, e)) (hv : (splitAt (groupAt s g) e).valid = true) (hm : (splitAt (groupAt s g) e).marked = [])
    (h : MayTrap s g e) (hne : takers s g e op a.toNat ≠ []) :
    let pc := (splitAt (groupAt s g) e).pc
    let r := (Table.row op).getD {}
    let quadCode (k : Nat) : Nat := quadCheck (groupAt s g) op d.toNat a.toNat b.toNat r k
    (privBad s g e op r = true → LiveLanesTake s g i (takers s g e op a.toNat) 6 pc) ∧
    (privBad s g e op r = false → Table.fieldsOk r d.toNat a.toNat b.toNat = false →
      LiveLanesTake s g i (takers s g e op a.toNat) 5 pc) ∧
    (PassesFields s g e op d.toNat a.toNat b.toNat →
      (∀ c, c ≠ 0 → (∀ k ∈ actingQuads s g e, quadCode k = c) → LiveLanesTake s g i (quadTakers s g e op a.toNat) c pc) ∧
      ((∀ k ∈ actingQuads s g e, quadCode k = 0) → (splitAt (groupAt s g) e).park = none →
        anyPending s g op d.toNat a.toNat b.toNat r (actingQuads s g e) = true →
        LiveLanesTake s g i (quadTakers s g e op a.toNat) 4 0)) := by
  have stopped {lanes : List Nat} {code : Nat} {addr : DWord}
      (hc : checks s g e op d.toNat a.toNat b.toNat (splitAt (groupAt s g) e).park.isSome = (sameFault lanes code addr, [])) :
      LiveLanesTake s g i lanes code addr := liveLanesTake_of_checks hi hcur hv hm h hc
  refine ⟨fun hp => stopped (checks_privilege _ hp), fun hp hf => stopped (checks_fields _ hp hf), fun hpass =>
    ⟨fun c hc hall => stopped (checks_allQuads _ hpass hne hc hall), fun hall hpark hpend => stopped ?_⟩⟩
  rw [hpark]
  exact checks_pending hpass hall hpend

/-! ## A dead lane that is still active -/

/-- A machine whose one quad issues in its four lanes; lane 0 of them has died, and its split still counts it active. -/
def deadActive : State :=
  { cur := some (0, 0)
    groups := [{ quads := [{ lanes := [{ dead := true }, {}, {}, {}], alloc := 64 }]
                 splits := { valid := true, qmask := 1, st := .issuing, pc := 16, act := 15 } :: List.replicate 8 {} }]
    parts := [{ cfg := some { hvec := [(0x1000, 0)] } }] }

set_option maxRecDepth 8000 in
/-- MOV with a non-zero field B: the live lanes record code 5, the dead one nothing (R35: dead and exited lanes take none). -/
theorem deadActive_records :
    (match exec (.mov 3 1 1) deadActive with
      | .next t => (List.range 4).map fun l => (laneAt (groupAt t 0) l).fault
      | _ => []) = [0, 5, 5, 5] := by decide

/-- Refutes O17: it has every lane of takers record the fault, and takers are the active lanes whether they live or not; R35 has
dead lanes take none, and so does the model. In the lanes that live the statement holds: liveLanes_take_firstFailedCheck. -/
theorem not_checksInOrder : ¬ Obligations.ChecksInOrder := by
  unfold Obligations.ChecksInOrder
  intro h
  obtain ⟨-, hfields, -⟩ := h deadActive 0 0 (.mov 3 1 1) 0x39 3 1 1 rfl rfl rfl rfl rfl (by decide) rfl (by decide) (by decide)
  obtain ⟨t, ht, hlanes⟩ := hfields (by decide) (by decide)
  have hfault : (laneAt (groupAt t 0) 0).fault = 5 := by rw [hlanes 0 (by decide) (by decide)]; rfl
  have hrecords := deadActive_records
  rw [ht] at hrecords
  simp [List.range, List.range.loop, hfault] at hrecords

end Sys2Proof.Machine
end
